-- ==== Sys2Proof/Word.lean ====
section
/-! DEFINITION. The plainest types of the K430 model: bytes, ports, sides, lanes, and the small records
that hold one value per port, per side, or per lane (00_scope 2.1). -/

namespace Sys2Proof

/-- One byte of a parcel (12.1). -/
abbrev Byte := BitVec 8

/-- The two parcel-link ports (00_scope 1.2). -/
inductive Port where
  | U
  | D
  deriving DecidableEq, Repr, Inhabited

/-- The two sides of a cassette (00_scope 2.1). -/
inductive Side where
  | A
  | B
  deriving DecidableEq, Repr, Inhabited

/-- The side that is not this one (R155). -/
def Side.other : Side → Side
  | .A => .B
  | .B => .A

/-- The four head tracks, numbered 0 to 3 (00_scope 2.1). -/
abbrev Lane := Fin 4

/-- Lanes 0 and 1 form side A, lanes 2 and 3 side B (00_scope 2.1). -/
def sideOf : Lane → Side
  | 0 => .A
  | 1 => .A
  | 2 => .B
  | 3 => .B

/-- A side's lower-numbered lane (00_scope 2.1). -/
def firstLane : Side → Lane
  | .A => 0
  | .B => 2

/-- A side's higher-numbered lane (00_scope 2.1). -/
def secondLane : Side → Lane
  | .A => 1
  | .B => 3

/-- The other lane of the same side, as the TWIN method uses it (R100). -/
def twinLane : Lane → Lane
  | 0 => 1
  | 1 => 0
  | 2 => 3
  | 3 => 2

/-- The two lanes of a side, first lane first. -/
def lanesOf (d : Side) : List Lane := [firstLane d, secondLane d]

/-- The four lanes in lane order (R81). -/
def allLanes : List Lane := [0, 1, 2, 3]

/-- One value for each port. -/
structure PerPort (α : Type) where
  u : α
  d : α
  deriving DecidableEq, Repr, Inhabited

/-- The value of one port. -/
def PerPort.get {α : Type} (x : PerPort α) : Port → α
  | .U => x.u
  | .D => x.d

/-- Replaces the value of one port. -/
def PerPort.set {α : Type} (x : PerPort α) (p : Port) (v : α) : PerPort α :=
  match p with
  | .U => { x with u := v }
  | .D => { x with d := v }

/-- One value for each side. -/
structure PerSide (α : Type) where
  a : α
  b : α
  deriving DecidableEq, Repr, Inhabited

/-- The value of one side. -/
def PerSide.get {α : Type} (x : PerSide α) : Side → α
  | .A => x.a
  | .B => x.b

/-- Replaces the value of one side. -/
def PerSide.set {α : Type} (x : PerSide α) (d : Side) (v : α) : PerSide α :=
  match d with
  | .A => { x with a := v }
  | .B => { x with b := v }

/-- Changes the value of one side. -/
def PerSide.modify {α : Type} (x : PerSide α) (d : Side) (f : α → α) : PerSide α :=
  x.set d (f (x.get d))

/-- The same value for both sides. -/
def PerSide.both {α : Type} (v : α) : PerSide α := ⟨v, v⟩

/-- Four like things numbered 0 to 3: the lanes, the EQ sets, the profile slots, the indicator lines. -/
structure Quad (α : Type) where
  q0 : α
  q1 : α
  q2 : α
  q3 : α
  deriving DecidableEq, Repr, Inhabited

/-- The value at one number. -/
def Quad.get {α : Type} (x : Quad α) : Fin 4 → α
  | 0 => x.q0
  | 1 => x.q1
  | 2 => x.q2
  | 3 => x.q3

/-- Replaces the value at one number. -/
def Quad.set {α : Type} (x : Quad α) (i : Fin 4) (v : α) : Quad α :=
  match i with
  | 0 => { x with q0 := v }
  | 1 => { x with q1 := v }
  | 2 => { x with q2 := v }
  | 3 => { x with q3 := v }

/-- Changes the value at one number. -/
def Quad.modify {α : Type} (x : Quad α) (i : Fin 4) (f : α → α) : Quad α :=
  x.set i (f (x.get i))

/-- The same value at all four numbers. -/
def Quad.fill {α : Type} (v : α) : Quad α := ⟨v, v, v, v⟩

/-- The four values given by a function of the number. -/
def Quad.tabulate {α : Type} (f : Fin 4 → α) : Quad α := ⟨f 0, f 1, f 2, f 3⟩

/-- The four values in order. -/
def Quad.toList {α : Type} (x : Quad α) : List α := [x.q0, x.q1, x.q2, x.q3]

/-- An order in which the two sides' tracker updates and productions of one boundary may be taken: each
side's update comes before its own production (R42), and nothing else is fixed (R67, R146). The names list
the four pieces of work in order: a capital side letter with T for the update, with P for the production. -/
inductive SideOrder where
  | atApBtBp
  | atBtApBp
  | atBtBpAp
  | btAtApBp
  | btAtBpAp
  | btBpAtAp
  deriving DecidableEq, Repr, Inhabited

/-- A piece of one side's work at a boundary. -/
inductive SideWork where
  | update (d : Side)
  | produce (d : Side)
  deriving DecidableEq, Repr, Inhabited

/-- The four pieces of work in the order named. -/
def SideOrder.works : SideOrder → List SideWork
  | .atApBtBp => [.update .A, .produce .A, .update .B, .produce .B]
  | .atBtApBp => [.update .A, .update .B, .produce .A, .produce .B]
  | .atBtBpAp => [.update .A, .update .B, .produce .B, .produce .A]
  | .btAtApBp => [.update .B, .update .A, .produce .A, .produce .B]
  | .btAtBpAp => [.update .B, .update .A, .produce .B, .produce .A]
  | .btBpAtAp => [.update .B, .produce .B, .update .A, .produce .A]

end Sys2Proof
end

