-- ==== Sys2Proof/Syntax.lean ====
section
/-! DEFINITION. The commands of the K430: one constructor per row of spec/opcode_table.json. The table gives
no operands; a command carries what its event brings from outside (log 1): the fields of a received parcel
at the width the parcel gives them, the port concerned, or the levels of the pins. -/

namespace Sys2Proof

/-- What the K430 keeps of a received parcel's header beyond its kind: byte 2, whose low six bits are the
unit address, and the tag (12.1). Both are kept whole, since a forwarded parcel leaves byte for byte (R16). -/
structure Header where
  addr : Byte
  tag : Byte
  deriving DecidableEq, Repr, Inhabited

/-- One lane of one raw frame, as a RAW parcel carries it (12.3). -/
structure LaneSample where
  sample : BitVec 24
  stamp : BitVec 24
  level : Byte
  valid : Bool
  deriving DecidableEq, Repr, Inhabited

/-- One raw frame: one sample from each of the four lanes (00_scope 2.2). -/
abbrev RawFrame := Quad LaneSample

/-- The commands. Directives carry their arguments at the widths of 12.4, unread: the directive's own rule
clamps, refuses or answers (R193). -/
inductive Instr where
  /-- POWER_ON (R183), with the strap pins' levels. -/
  | powerOn (straps : BitVec 3)
  /-- RESET_LINE_ASSERT (R191). -/
  | resetLineAssert
  /-- RESET_LINE_RELEASE (R191), with the strap pins' levels. -/
  | resetLineRelease (straps : BitVec 3)
  /-- AUTOLOAD_COMPLETE (R184), with the slots whose stored contents have been lost or damaged (R178). -/
  | autoloadComplete (damaged : BitVec 4)
  /-- PORT_GOES_UP (R1). -/
  | portGoesUp (p : Port)
  /-- PORT_GOES_DOWN (R1). -/
  | portGoesDown (p : Port)
  /-- PARCEL_CHECK_FAILED (R6), with the delivered byte sequence. -/
  | parcelCheckFailed (p : Port) (bytes : List Byte)
  /-- RAW_PARCEL (R19): its first raw position and its 16 frames. -/
  | rawParcel (first : BitVec 32) (frames : Vector RawFrame 16)
  /-- DECK_PARCEL (R17): its header and its transport state code. -/
  | deckParcel (h : Header) (code : Byte)
  /-- CONVERTER_REPORT (R15): its header and its body. -/
  | converterReport (h : Header) (body : List Byte)
  /-- DIRECTIVE_FOR_OTHER_UNIT (R12): its header and its whole body. -/
  | directiveForOtherUnit (h : Header) (body : List Byte)
  /-- UPSTREAM_TRANSMIT_START (R14). -/
  | upstreamTransmitStart
  /-- UPSTREAM_FORWARD_TRANSMITTED (R14). -/
  | upstreamForwardTransmitted
  /-- ARBITER_CHOICE (R153). -/
  | arbiterChoice
  /-- PARCEL_TRANSMITTED (R152). -/
  | parcelTransmitted
  /-- UNKNOWN_DIRECTIVE (R162): its header and its whole body, kind byte included. -/
  | unknownDirective (h : Header) (body : List Byte)
  /-- IDENTIFY (R163). -/
  | identify (h : Header)
  /-- STATUS (R164). -/
  | status (h : Header)
  /-- SET_ADDRESS (R165). -/
  | setAddress (h : Header) (address : Byte)
  /-- READ_SETTING (R166). -/
  | readSetting (h : Header) (id : Byte)
  /-- WRITE_SETTING (R167): the value is read as signed. -/
  | writeSetting (h : Header) (id : Byte) (value : BitVec 32)
  /-- MAP_INSERT (R109). -/
  | mapInsert (h : Header) (cls lanes : Byte) (start stop param : BitVec 32)
  /-- MAP_DELETE (R112). -/
  | mapDelete (h : Header) (id : BitVec 16)
  /-- MAP_READ (R114). -/
  | mapRead (h : Header) (ordinal : BitVec 16)
  /-- MAP_CLEAR (R113). -/
  | mapClear (h : Header)
  /-- LOAD_BEGIN (R170). -/
  | loadBegin (h : Header) (table : Byte)
  /-- LOAD_CHUNK (R171). -/
  | loadChunk (h : Header) (index : Byte) (words : Vector (BitVec 32) 32)
  /-- LOAD_END (R172). -/
  | loadEnd (h : Header) (sum : BitVec 32)
  /-- LOAD_CANCEL (R174). -/
  | loadCancel (h : Header)
  /-- LOAD_TIMER_EXPIRY (R173). -/
  | loadTimerExpiry
  /-- ACK_EVENTS (R148). -/
  | ackEvents (h : Header) (set : BitVec 16)
  /-- SNAPSHOT_COUNTERS (R151). -/
  | snapshotCounters (h : Header) (clear : Byte)
  /-- PROFILE_SAVE (R180). -/
  | profileSave (h : Header) (slot makeDefault : Byte)
  /-- PROFILE_SAVE_COMPLETE (R180). -/
  | profileSaveComplete
  /-- PROFILE_ERASE (R181). -/
  | profileErase (h : Header) (slot : Byte)
  /-- PROFILE_ERASE_COMPLETE (R181). -/
  | profileEraseComplete
  /-- PROFILE_RECALL (R182). -/
  | profileRecall (h : Header) (slot : Byte)
  /-- RESET_ENGINE (R176). -/
  | resetEngine (h : Header)
  /-- RESET_UNIT (R177). -/
  | resetUnit (h : Header)
  /-- PARCEL_DROPPED_DURING_START_UP (R8), with the port and the delivered byte sequence. -/
  | parcelDroppedDuringStartUp (p : Port) (bytes : List Byte)
  /-- POWER_LOSS (R183). -/
  | powerLoss
  /-- TRIM_PULSE_PERIOD (R190). -/
  | trimPulsePeriod
  deriving DecidableEq, Repr

end Sys2Proof
end

