-- ==== Sys2Proof/Machine/Types.lean ====
section
/-! DEFINITION. The records and names the blocks of the K430 hold, each beside the rule that gives it. -/

namespace Sys2Proof.Machine

/-! ### Names with codes (12.2, 12.5) -/

/-- Where the part stands between power and operation (R183, R191). -/
inductive Phase where
  /-- No power. -/
  | off
  /-- The reset line is asserted (R191). -/
  | held
  /-- From the beginning of start-up to the end of the autoload: both receivers drop every parcel (R183). -/
  | startUp
  /-- In operation. -/
  | running
  deriving DecidableEq, Repr, Inhabited

/-- The kind of the last unit reset (R183). -/
inductive ResetCause where
  | power
  | line
  | directive
  deriving DecidableEq, Repr, Inhabited

/-- The outcome of the autoload (R184). -/
inductive AutoloadOutcome where
  | default
  | factory
  | builtin
  deriving DecidableEq, Repr, Inhabited

/-- A port's link state (R1). -/
inductive LinkState where
  | down
  | up
  deriving DecidableEq, Repr, Inhabited

/-- The deck's transport state (R17). -/
inductive Transport where
  | stop
  | play
  | spool
  | pause
  deriving DecidableEq, Repr, Inhabited

/-- A carrier tracker's state (R34). -/
inductive TrackerState where
  | idle
  | acquire
  | locked
  | hold
  | free
  deriving DecidableEq, Repr, Inhabited

/-- A dropout detector's state (R80). -/
inductive DetectorState where
  | clear
  | suspect
  | dropout
  | recovering
  deriving DecidableEq, Repr, Inhabited

/-- How a side's recording ran relative to the tape's motion (00_scope 2.1). -/
inductive Direction where
  | forward
  | reverse
  deriving DecidableEq, Repr, Inhabited

/-- The reference lane setting (R38). -/
inductive RefLane where
  | first
  | second
  | auto
  deriving DecidableEq, Repr, Inhabited

/-- The skew mode setting (R58). -/
inductive SkewMode where
  | auto
  | off
  deriving DecidableEq, Repr, Inhabited

/-- The repair modes (R94). -/
inductive RepairMode where
  | pass
  | mute
  | hold
  | twin
  deriving DecidableEq, Repr, Inhabited

/-- The repair method a sample's flags name (R101). -/
inductive RepairMethod where
  | none
  | mute
  | hold
  | twin
  deriving DecidableEq, Repr, Inhabited

/-- The sources of an indicator line (R186). -/
inductive IndicatorSource where
  | low
  | high
  | lockA
  | lockB
  | lockAll
  | lockAny
  | dropoutAny
  | eventPending
  | logHigh
  | pauseRequest
  deriving DecidableEq, Repr, Inhabited

/-- The twelve event kinds (R145). -/
inductive EventKind where
  | tbLostA
  | tbLostB
  | logHigh
  | logFull
  | streamGap
  | streamBreak
  | linkDegraded
  | loadAbandoned
  | profileFault
  | directiveOverrun
  | portDown
  | outputClip
  deriving DecidableEq, Repr, Inhabited

/-- The fifteen outcomes an answer may carry (R161). -/
inductive AnswerCode where
  | ok
  | clamped
  | busy
  | range
  | form
  | full
  | conflict
  | crowded
  | late
  | order
  | check
  | noload
  | protectedSlot
  | empty
  | unknown
  deriving DecidableEq, Repr, Inhabited

/-- The classes of a map entry (R104). -/
inductive MapClass where
  | threshold
  | repair
  | timebase
  | skew
  | gain
  | eqset
  | note
  deriving DecidableEq, Repr, Inhabited

/-- A table that a load may name (R170). -/
inductive TableCode where
  | eq (set : Fin 4)
  | kernel
  deriving DecidableEq, Repr, Inhabited

/-! ### The settings table (9.4) -/

/-- The settings table: every value the workstation sets and a profile stores. -/
structure Settings where
  laneEnable : Quad Bool
  direction : PerSide Direction
  window : Nat
  biasHz : PerSide Nat
  speedRange : Nat
  slew : Nat
  lockCount : Nat
  holdLimit : Nat
  reference : PerSide RefLane
  skewMode : PerSide SkewMode
  skewCycles : PerSide Int
  threshold : PerSide Nat
  nIn : Nat
  nOut : Nat
  twin : PerSide Bool
  repairMode : PerSide RepairMode
  eqSet : PerSide (Fin 4)
  gain : PerSide Nat
  linkThreshold : Nat
  loadTimeout : Nat
  noticeMask : BitVec 12
  indicator : Quad IndicatorSource
  pauseOnLogHigh : Bool
  trimEnable : Bool
  trimSide : Side
  trimDeadband : Nat
  deriving DecidableEq, Repr

/-- The names of the settings (12.5). -/
inductive SettingId where
  | laneEnable (l : Lane)
  | direction (d : Side)
  | window
  | biasHz (d : Side)
  | speedRange
  | slew
  | lockCount
  | holdLimit
  | reference (d : Side)
  | skewMode (d : Side)
  | skewCycles (d : Side)
  | threshold (d : Side)
  | nIn
  | nOut
  | twin (d : Side)
  | repairMode (d : Side)
  | eqSet (d : Side)
  | gain (d : Side)
  | linkThreshold
  | loadTimeout
  | noticeMask
  | indicator (line : Fin 4)
  | pauseOnLogHigh
  | trimEnable
  | trimSide
  | trimDeadband
  deriving DecidableEq, Repr, Inhabited

/-- The pending settings' values in force for the pass (R24). -/
structure Applied where
  laneEnable : Quad Bool
  direction : PerSide Direction
  window : Nat
  deriving DecidableEq, Repr

/-! ### Parcels -/

/-- A parcel as it travels, less its lead byte, its length field and its check word, which every good or
originated parcel's other fields determine (12.1, R5). -/
structure Parcel where
  kind : Byte
  addr : Byte
  tag : Byte
  body : List Byte
  deriving DecidableEq, Repr

/-! ### The unit and its link -/

/-- Unit-wide state (R11, R183, R184, R191). -/
structure UnitRegs where
  phase : Phase
  /-- Milliseconds of start-up passed (R183 step 2). -/
  startUpMs : Nat
  resetCause : ResetCause
  autoload : AutoloadOutcome
  /-- The serial number read at the autoload (R163). -/
  serial : BitVec 32
  strapAddress : BitVec 6
  unitAddress : BitVec 6
  /-- The levels of the strap pins. -/
  straps : BitVec 3
  /-- Whether the reset line is asserted. -/
  resetLine : Bool
  deriving DecidableEq, Repr

/-- The two ports (Chapter 1). -/
structure LinkBlock where
  /-- The alive signals of the physical lines (R1). -/
  alive : PerPort Bool
  link : PerPort LinkState
  /-- The link-error counts (R9). -/
  errors : PerPort Nat
  /-- The upstream forward queue, head first (R14). -/
  upstream : List Parcel
  /-- The parcel in transmission on Port U: the head of the upstream forward queue (R14). -/
  sendingU : Option Parcel
  /-- The downstream forward queue, head first (R15). -/
  downstream : List Parcel
  deriving DecidableEq, Repr

/-! ### Intake and the lane history -/

/-- Raw intake (2.1). -/
structure Intake where
  transport : Transport
  /-- The pass state: RUNNING or IDLE. -/
  running : Bool
  passNumber : BitVec 8
  passStart : Nat
  position : Nat
  expected : Option Nat
  applied : Applied
  deriving DecidableEq, Repr

/-- One entry of a lane history ring (R30). -/
structure HistEntry where
  sample : Int
  stamp : BitVec 24
  level : Nat
  valid : Bool
  damaged : Bool
  gap : Bool
  deriving DecidableEq, Repr, Inhabited

/-- One lane's ring of 2,048 entries, as the entries that are not cleared, by rising index. -/
abbrev Ring := List (Nat × HistEntry)

/-! ### Carrier tracker, resampler -/

/-- One entry of a stamp ring (R35). -/
structure StampEntry where
  stamp : BitVec 24
  clean : Bool
  deriving DecidableEq, Repr, Inhabited

/-- The force condition, with the id of the forcing map entry (R34). -/
inductive Force where
  | none
  | hold (id : Nat)
  | nominal (id : Nat)
  deriving DecidableEq, Repr, Inhabited

/-- The carrier tracker of a side (R34). Steps and skews are in units of 2^-24 frame. The rings stand oldest
entry first. -/
structure Tracker where
  state : TrackerState
  ringFirst : List StampEntry
  ringSecond : List StampEntry
  appliedStep : Int
  targetStep : Int
  validRun : Nat
  holdCount : Nat
  /-- The skew average E. -/
  skewAverage : Int
  skewInForce : Int
  force : Force
  deriving DecidableEq, Repr

/-- The resampler of a side (R60). The read position is one number in units of 2^-24 frame. -/
structure Resampler where
  readPos : Int
  frameNumber : Nat
  cursor : Nat
  lag : Nat
  exhausted : Bool
  deriving DecidableEq, Repr

/-! ### Detector, repair, equalizer, clean assembler -/

/-- The dropout detector of a lane (R80). -/
structure Detector where
  state : DetectorState
  count : Nat
  start : Nat
  lowest : Nat
  gap : Bool
  deriving DecidableEq, Repr

/-- The repair stage of a lane (R93). -/
structure Repair where
  lastGood : Option Int
  holdGain : Nat
  inRun : Bool
  deriving DecidableEq, Repr

/-- The flag set of an output sample (R101, 12.3). -/
structure FlagSet where
  damaged : Bool
  repaired : Bool
  method : RepairMethod
  twinUnavailable : Bool
  gap : Bool
  tbUnlocked : Bool
  clipped : Bool
  tail : Bool
  laneOff : Bool
  deriving DecidableEq, Repr

/-- What belongs to one sample of one lane beyond its value (R127). -/
structure LaneRecord where
  flags : FlagSet
  clip : Bool
  eqSet : Fin 4
  gain : Nat
  deriving DecidableEq, Repr

/-- What belongs to one output frame of a side (R127). -/
structure FrameRecord where
  number : Nat
  rawSource : Nat
  deriving DecidableEq, Repr

/-- A lane's sample line (63 samples) and record delay (63 entries), newest first (R127). -/
structure EqLane where
  line : List Int
  records : List (Option LaneRecord)
  deriving DecidableEq, Repr

/-- A side's frame delay (31 entries, newest first), fill count and tail-flush state (R127). -/
structure EqSide where
  frames : List (Option FrameRecord)
  fill : Nat
  flushing : Bool
  deriving DecidableEq, Repr

/-- A sample with its flag set, as a CLEAN parcel carries it (R138). -/
structure SampleOut where
  sample : Int
  flags : FlagSet
  deriving DecidableEq, Repr

/-- One frame of a partial CLEAN parcel (R138). -/
structure CleanFrame where
  first : SampleOut
  second : SampleOut
  record : FrameRecord
  deriving DecidableEq, Repr

/-- A completed CLEAN parcel (R139). -/
structure CleanParcel where
  side : Side
  pass : BitVec 8
  firstNumber : Nat
  rawSource : Nat
  reversed : Bool
  tracker : TrackerState
  frames : List CleanFrame
  deriving DecidableEq, Repr

/-! ### Correction map -/

/-- An entry of the correction map (R104). `stop` is the exclusive end. -/
structure MapEntry where
  id : Nat
  cls : MapClass
  lanes : BitVec 4
  start : Nat
  stop : Nat
  param : BitVec 32
  deriving DecidableEq, Repr

/-- A walker (R115). A side walker uses the active sets of its side's lanes only. -/
structure Walker where
  cursor : Nat
  running : Bool
  next : Option Nat
  active : Quad (List Nat)
  deriving DecidableEq, Repr

/-- The correction map: its entries in map order (R106) and its three walkers. -/
structure CorrectionMap where
  entries : List MapEntry
  intakeWalker : Walker
  sideWalker : PerSide Walker
  deriving DecidableEq, Repr

/-! ### Reports -/

/-- A damage record (R90). `cut` is set for closing CUT. -/
structure DamageRecord where
  lane : Lane
  start : Nat
  stop : Nat
  lowest : Nat
  gap : Bool
  cut : Bool
  pass : BitVec 8
  deriving DecidableEq, Repr

/-- A notice (R146). -/
structure Notice where
  kind : EventKind
  pass : BitVec 8
  position : Nat
  deriving DecidableEq, Repr

/-- A cue report (R124). `isEnd` is set for edge END. -/
structure Cue where
  id : Nat
  label : Nat
  isEnd : Bool
  side : Side
  frame : Nat
  deriving DecidableEq, Repr

/-- The 47 statistics counters, named in the order of R150. -/
structure Counters where
  receivedU : BitVec 32
  receivedD : BitVec 32
  checkErrorsU : BitVec 32
  checkErrorsD : BitVec 32
  malformed : BitVec 32
  streamGaps : BitVec 32
  streamBreaks : BitVec 32
  rawDiscarded : BitVec 32
  directivesRefused : BitVec 32
  directivesDropped : BitVec 32
  forwardedDropped : BitVec 32
  unloggedDropouts : BitVec 32
  cuesDropped : BitVec 32
  outputFrames : PerSide (BitVec 32)
  lockAcquisitions : PerSide (BitVec 32)
  timeBaseLosses : PerSide (BitVec 32)
  heldParcels : PerSide (BitVec 32)
  cleanDiscarded : PerSide (BitVec 32)
  framesAdmitted : Quad (BitVec 32)
  dropoutsClosed : Quad (BitVec 32)
  markedFrames : Quad (BitVec 32)
  repairedSamples : Quad (BitVec 32)
  damagedUnrepaired : Quad (BitVec 32)
  clippedSamples : Quad (BitVec 32)
  deriving DecidableEq, Repr

/-- The sources of the report arbiter (R152, R154). -/
inductive Source where
  | clean (d : Side)
  | directive
  | notice
  | cue
  | downstream
  | damage
  deriving DecidableEq, Repr, Inhabited

/-- A transmission on Port D: the source whose head is being sent, and the parcel's fields as they stood when
its transmission began (R13, R152). -/
structure Sending where
  source : Source
  parcel : Parcel
  deriving DecidableEq, Repr

/-- The report arbiter (R152). -/
structure Arbiter where
  nextSide : Side
  owed : Bool
  sending : Option Sending
  deriving DecidableEq, Repr

/-! ### Directives, stager, store, line unit -/

/-- An entry of the directive queue: the directive's kind and tag, and its answer (R159). -/
structure Answer where
  kind : Byte
  tag : Byte
  code : AnswerCode
  result : List Byte
  deriving DecidableEq, Repr

/-- The load timer while it runs (R169). -/
structure LoadTimer where
  elapsed : Nat
  timeout : Nat
  deriving DecidableEq, Repr

/-- An installation pending (R169). -/
inductive Install where
  | none
  | load (table : TableCode)
  | recall (slot : Fin 4)
  deriving DecidableEq, Repr, Inhabited

/-- The table stager (R169). -/
structure Stager where
  loading : Bool
  table : Option TableCode
  expected : Nat
  next : Nat
  sum : BitVec 32
  timer : Option LoadTimer
  staging : List Int
  install : Install
  deriving DecidableEq, Repr

/-- A profile: settings, kernel and EQ sets (R178). -/
structure Profile where
  settings : Settings
  kernel : List Int
  eqSets : Quad (List Int)
  deriving DecidableEq, Repr

/-- A slot of the profile store (R178): its profile, in slot 0 the serial number, and its check word. An erased slot
holds no profile. -/
structure Slot where
  profile : Option Profile
  /-- The serial number of the part: slot 0 alone holds one. -/
  serial : Option (BitVec 32)
  /-- The check word: the CRC of R5 over the rest of the slot, when the slot is valid. -/
  check : BitVec 16
  deriving DecidableEq, Repr

/-- The store state, with the slot being written and, for a save, the copy taken at its execution and its
make-default choice (R179, R180). -/
inductive StoreState where
  | idle
  | saving (slot : Fin 4) (copy : Profile) (makeDefault : Bool)
  | erasing (slot : Fin 4)
  deriving DecidableEq, Repr

/-- The profile store (R178, R179). -/
structure ProfileStore where
  slots : Quad Slot
  /-- The default slot named by the header. -/
  header : Fin 4
  state : StoreState
  /-- Milliseconds since the operation in progress began. -/
  elapsed : Nat
  deriving DecidableEq, Repr

/-- The line unit (Chapter 11). -/
structure LineUnit where
  pauseRequest : Bool
  trimCount : Nat
  trimSum : Int
  allLocked : Bool
  duty : Nat
  /-- The duty the trim line carries in its present pulse period; 0 is low throughout (R190). -/
  lineDuty : Nat
  /-- The levels of the four indicator lines. -/
  levels : Quad Bool
  deriving DecidableEq, Repr

end Sys2Proof.Machine
end

