-- ==== Sys2Proof/Machine/Codes.lean ====
section
/-! DEFINITION. The codes of named values in parcel bodies (12.2, 12.5). -/

namespace Sys2Proof.Machine

/-- 12.2, side. -/
def sideCode : Side → Nat
  | .A => 0
  | .B => 1

/-- 12.2, transport state; a code above 3 is none of the four (R17). -/
def transportOfCode : Nat → Option Transport
  | 0 => some .stop
  | 1 => some .play
  | 2 => some .spool
  | 3 => some .pause
  | _ => none

/-- 12.2, transport state. -/
def transportCode : Transport → Nat
  | .stop => 0
  | .play => 1
  | .spool => 2
  | .pause => 3

/-- 12.2, tracker state. -/
def trackerCode : TrackerState → Nat
  | .idle => 0
  | .acquire => 1
  | .locked => 2
  | .hold => 3
  | .free => 4

/-- 12.2, detector state. -/
def detectorCode : DetectorState → Nat
  | .clear => 0
  | .suspect => 1
  | .dropout => 2
  | .recovering => 3

/-- 12.2, event kind, and its bit in flag sets and in the notice mask. -/
def EventKind.code : EventKind → Nat
  | .tbLostA => 0
  | .tbLostB => 1
  | .logHigh => 2
  | .logFull => 3
  | .streamGap => 4
  | .streamBreak => 5
  | .linkDegraded => 6
  | .loadAbandoned => 7
  | .profileFault => 8
  | .directiveOverrun => 9
  | .portDown => 10
  | .outputClip => 11

/-- 12.2, outcome. -/
def AnswerCode.code : AnswerCode → Nat
  | .ok => 0
  | .clamped => 1
  | .busy => 2
  | .range => 3
  | .form => 4
  | .full => 5
  | .conflict => 6
  | .crowded => 7
  | .late => 8
  | .order => 9
  | .check => 10
  | .noload => 11
  | .protectedSlot => 12
  | .empty => 13
  | .unknown => 14

/-- 12.2, map class. -/
def mapClassOfCode : Nat → Option MapClass
  | 0 => some .threshold
  | 1 => some .repair
  | 2 => some .timebase
  | 3 => some .skew
  | 4 => some .gain
  | 5 => some .eqset
  | 6 => some .note
  | _ => none

/-- 12.2, map class. -/
def mapClassCode : MapClass → Nat
  | .threshold => 0
  | .repair => 1
  | .timebase => 2
  | .skew => 3
  | .gain => 4
  | .eqset => 5
  | .note => 6

/-- 12.2, repair mode. -/
def repairModeOfCode : Nat → Option RepairMode
  | 0 => some .pass
  | 1 => some .mute
  | 2 => some .hold
  | 3 => some .twin
  | _ => none

/-- 12.2, repair mode. -/
def repairModeCode : RepairMode → Nat
  | .pass => 0
  | .mute => 1
  | .hold => 2
  | .twin => 3

/-- 12.3, repair method in a flag set. -/
def repairMethodCode : RepairMethod → Nat
  | .none => 0
  | .mute => 1
  | .hold => 2
  | .twin => 3

/-- 12.2, table code: 0 to 3 EQ set 0 to 3, 4 KERNEL. -/
def tableOfCode : Nat → Option TableCode
  | 0 => some (.eq 0)
  | 1 => some (.eq 1)
  | 2 => some (.eq 2)
  | 3 => some (.eq 3)
  | 4 => some .kernel
  | _ => none

/-- A slot number 0 to 3, or none (R180). -/
def slotOfCode : Nat → Option (Fin 4)
  | 0 => some 0
  | 1 => some 1
  | 2 => some 2
  | 3 => some 3
  | _ => none

/-- 12.2, installation pending. -/
def installCode : Install → Nat
  | .none => 0
  | .load _ => 1
  | .recall _ => 2

/-- 12.2, store state. -/
def storeCode : StoreState → Nat
  | .idle => 0
  | .saving _ _ _ => 1
  | .erasing _ => 2

/-- 12.2, reset cause. -/
def resetCauseCode : ResetCause → Nat
  | .power => 0
  | .line => 1
  | .directive => 2

/-- 12.2, autoload outcome. -/
def autoloadCode : AutoloadOutcome → Nat
  | .default => 0
  | .factory => 1
  | .builtin => 2

/-- 12.2, load state and pass state: 0 IDLE, 1 LOADING or RUNNING; also off/on settings (12.5). -/
def boolCode (b : Bool) : Nat := if b then 1 else 0

/-- 12.5, direction. -/
def directionCode : Direction → Nat
  | .forward => 0
  | .reverse => 1

/-- 12.5, reference lane. -/
def refLaneCode : RefLane → Nat
  | .first => 0
  | .second => 1
  | .auto => 2

/-- 12.5, skew mode. -/
def skewModeCode : SkewMode → Nat
  | .auto => 0
  | .off => 1

/-- 12.5, indicator source, in the order of R186. -/
def indicatorCode : IndicatorSource → Nat
  | .low => 0
  | .high => 1
  | .lockA => 2
  | .lockB => 3
  | .lockAll => 4
  | .lockAny => 5
  | .dropoutAny => 6
  | .eventPending => 7
  | .logHigh => 8
  | .pauseRequest => 9

/-- 12.5, indicator source. -/
def indicatorOfCode : Nat → Option IndicatorSource
  | 0 => some .low
  | 1 => some .high
  | 2 => some .lockA
  | 3 => some .lockB
  | 4 => some .lockAll
  | 5 => some .lockAny
  | 6 => some .dropoutAny
  | 7 => some .eventPending
  | 8 => some .logHigh
  | 9 => some .pauseRequest
  | _ => none

end Sys2Proof.Machine
end

