-- ==== Sys2Proof/Config.lean ====
section
/-! DEFINITION. What one part fixes, and the values the spec leaves open: constants with no body, so that
nothing can be proved about their values. -/

namespace Sys2Proof.Config

/-- The serial number written into slot 0 at manufacture (R178). The spec gives each part its own.
DESIGN CHOICE (log 9): free. -/
opaque serialNumber : BitVec 32

/-- The order of the two sides' work at a parcel boundary, which the spec leaves open (R67, R146): read at
the model's counter of free values. DESIGN CHOICE (log 10): free. -/
opaque boundaryOrder : Nat → SideOrder

end Sys2Proof.Config
end

