-- ==== Sys2Proof/Machine/Bytes.lean ====
section
/-! DEFINITION. Byte order, signed fields (R193) and the check word (R5). -/

namespace Sys2Proof.Machine

/-- `k` bytes of a number, most significant first (R193); bits above them are dropped. -/
def bytesBE : Nat → Nat → List Byte
  | 0, _ => []
  | k + 1, v => BitVec.ofNat 8 (v / 256 ^ k) :: bytesBE k v

/-- The number whose bytes, most significant first, are these (R193). -/
def natBE (bs : List Byte) : Nat :=
  bs.foldl (fun acc b => acc * 256 + b.toNat) 0

/-- A signed field of `k` bytes, two's complement (R193). -/
def signedBE (k : Nat) (v : Int) : List Byte :=
  bytesBE k (v % (256 ^ k : Nat)).toNat

/-- One byte holding a number below 256. -/
def byteOf (v : Nat) : Byte := BitVec.ofNat 8 v

/-- The word of `w` bits that `count` bytes from `at` on hold, most significant first. -/
def wordAt (w : Nat) (bs : List Byte) (start count : Nat) : BitVec w :=
  BitVec.ofNat w (natBE ((bs.drop start).take count))

/-- One bit of data taken into the check register (R5). -/
def crcBit (reg : BitVec 16) (b : Bool) : BitVec 16 :=
  if reg.msb != b then (reg <<< 1) ^^^ 4129#16 else reg <<< 1

/-- One byte taken into the check register, most significant bit first (R5). -/
def crcByte (reg : BitVec 16) (b : Byte) : BitVec 16 :=
  [7, 6, 5, 4, 3, 2, 1, 0].foldl (fun r i => crcBit r (b.getLsbD i)) reg

/-- The check word of a byte sequence: the register starts with all sixteen bits set (R5). -/
def checkWord (bs : List Byte) : BitVec 16 :=
  bs.foldl crcByte (BitVec.allOnes 16)

end Sys2Proof.Machine
end

