-- ==== Sys2Proof/Machine/Settings.lean ====
section
/-! DEFINITION. The settings table as directives see it: ids, values, the judgement of a written value, and
the store of an accepted one (9.4, R166, R167, 12.5). -/

namespace Sys2Proof.Machine

/-- The setting an id names (12.5). -/
def settingOf : Nat → Option SettingId
  | 0 => some (.laneEnable 0)
  | 1 => some (.laneEnable 1)
  | 2 => some (.laneEnable 2)
  | 3 => some (.laneEnable 3)
  | 4 => some (.direction .A)
  | 5 => some (.direction .B)
  | 6 => some .window
  | 7 => some (.biasHz .A)
  | 8 => some (.biasHz .B)
  | 9 => some .speedRange
  | 10 => some .slew
  | 11 => some .lockCount
  | 12 => some .holdLimit
  | 13 => some (.reference .A)
  | 14 => some (.reference .B)
  | 15 => some (.skewMode .A)
  | 16 => some (.skewMode .B)
  | 17 => some (.skewCycles .A)
  | 18 => some (.skewCycles .B)
  | 19 => some (.threshold .A)
  | 20 => some (.threshold .B)
  | 21 => some .nIn
  | 22 => some .nOut
  | 23 => some (.twin .A)
  | 24 => some (.twin .B)
  | 25 => some (.repairMode .A)
  | 26 => some (.repairMode .B)
  | 27 => some (.eqSet .A)
  | 28 => some (.eqSet .B)
  | 29 => some (.gain .A)
  | 30 => some (.gain .B)
  | 31 => some .linkThreshold
  | 32 => some .loadTimeout
  | 33 => some .noticeMask
  | 34 => some (.indicator 0)
  | 35 => some (.indicator 1)
  | 36 => some (.indicator 2)
  | 37 => some (.indicator 3)
  | 38 => some .pauseOnLogHigh
  | 39 => some .trimEnable
  | 40 => some .trimSide
  | 41 => some .trimDeadband
  | _ => none

/-- Every setting in id order, 0 to 41, as PROFILE RECALL and the autoload write them (12.5). -/
def allSettings : List SettingId := (List.range 42).filterMap settingOf

/-- The value the table holds for a setting, as READ SETTING reports it (R166). -/
def settingValue (t : Settings) : SettingId → Int
  | .laneEnable l => boolCode (t.laneEnable.get l)
  | .direction d => directionCode (t.direction.get d)
  | .window => t.window
  | .biasHz d => t.biasHz.get d
  | .speedRange => t.speedRange
  | .slew => t.slew
  | .lockCount => t.lockCount
  | .holdLimit => t.holdLimit
  | .reference d => refLaneCode (t.reference.get d)
  | .skewMode d => skewModeCode (t.skewMode.get d)
  | .skewCycles d => t.skewCycles.get d
  | .threshold d => t.threshold.get d
  | .nIn => t.nIn
  | .nOut => t.nOut
  | .twin d => boolCode (t.twin.get d)
  | .repairMode d => repairModeCode (t.repairMode.get d)
  | .eqSet d => (t.eqSet.get d).val
  | .gain d => t.gain.get d
  | .linkThreshold => t.linkThreshold
  | .loadTimeout => t.loadTimeout
  | .noticeMask => t.noticeMask.toNat
  | .indicator i => indicatorCode (t.indicator.get i)
  | .pauseOnLogHigh => boolCode t.pauseOnLogHigh
  | .trimEnable => boolCode t.trimEnable
  | .trimSide => sideCode t.trimSide
  | .trimDeadband => t.trimDeadband

/-- The value in force for the current pass, which READ SETTING reports beside the table's: the applied value
of a pending setting, the table's own value of any other (R166). -/
def appliedValue (a : Applied) (t : Settings) : SettingId → Int
  | .laneEnable l => boolCode (a.laneEnable.get l)
  | .direction d => directionCode (a.direction.get d)
  | .window => a.window
  | id => settingValue t id

/-- How a setting takes its values (9.4). -/
inductive SettingKind where
  /-- A range of integers. -/
  | numeric (lo hi : Int)
  /-- The track window's list, which takes the next listed value above. -/
  | window
  /-- The speed range's list, which refuses any other value. -/
  | speedRange
  /-- Codes from 0 to one less than the count. -/
  | codes (count : Int)
  deriving DecidableEq, Repr

/-- The kind and values of each setting (9.4). -/
def settingKind : SettingId → SettingKind
  | .laneEnable _ => .codes 2
  | .direction _ => .codes 2
  | .window => .window
  | .biasHz _ => .numeric 20000 150000
  | .speedRange => .speedRange
  | .slew => .numeric 1 4096
  | .lockCount => .numeric 1 64
  | .holdLimit => .numeric 1 4096
  | .reference _ => .codes 3
  | .skewMode _ => .codes 2
  | .skewCycles _ => .numeric (-8) 8
  | .threshold _ => .numeric 0 255
  | .nIn => .numeric 1 255
  | .nOut => .numeric 1 255
  | .twin _ => .codes 2
  | .repairMode _ => .codes 4
  | .eqSet _ => .numeric 0 3
  | .gain _ => .numeric 0 65535
  | .linkThreshold => .numeric 1 65535
  | .loadTimeout => .numeric 10 2550
  | .noticeMask => .codes 4096
  | .indicator _ => .codes 10
  | .pauseOnLogHigh => .codes 2
  | .trimEnable => .codes 2
  | .trimSide => .codes 2
  | .trimDeadband => .numeric 0 65535

/-- The judgement of a written value: the value to store, if any, and the outcome (the table of R167). -/
def judgeSetting (k : SettingKind) (v : Int) : Option Int × AnswerCode :=
  match k with
  | .numeric lo hi =>
    if v < lo then (some lo, .clamped) else if hi < v then (some hi, .clamped) else (some v, .ok)
  | .window =>
    if v = 64 ∨ v = 128 ∨ v = 256 ∨ v = 512 then (some v, .ok)
    else if v < 64 then (some 64, .clamped)
    else if v < 128 then (some 128, .clamped)
    else if v < 256 then (some 256, .clamped)
    else (some 512, .clamped)
  | .speedRange => if v = 2 ∨ v = 4 ∨ v = 8 ∨ v = 12 then (some v, .ok) else (none, .range)
  | .codes count => if 0 ≤ v ∧ v < count then (some v, .ok) else (none, .range)

/-- The table with an accepted value stored in one setting. -/
def putSetting (t : Settings) (id : SettingId) (v : Int) : Settings :=
  match id with
  | .laneEnable l => { t with laneEnable := t.laneEnable.set l (v == 1) }
  | .direction d => { t with direction := t.direction.set d (if v = 1 then .reverse else .forward) }
  | .window => { t with window := v.toNat }
  | .biasHz d => { t with biasHz := t.biasHz.set d v.toNat }
  | .speedRange => { t with speedRange := v.toNat }
  | .slew => { t with slew := v.toNat }
  | .lockCount => { t with lockCount := v.toNat }
  | .holdLimit => { t with holdLimit := v.toNat }
  | .reference d =>
    { t with reference := t.reference.set d (if v = 0 then .first else if v = 1 then .second else .auto) }
  | .skewMode d => { t with skewMode := t.skewMode.set d (if v = 1 then .off else .auto) }
  | .skewCycles d => { t with skewCycles := t.skewCycles.set d v }
  | .threshold d => { t with threshold := t.threshold.set d v.toNat }
  | .nIn => { t with nIn := v.toNat }
  | .nOut => { t with nOut := v.toNat }
  | .twin d => { t with twin := t.twin.set d (v == 1) }
  | .repairMode d => { t with repairMode := t.repairMode.set d ((repairModeOfCode v.toNat).getD .pass) }
  | .eqSet d => { t with eqSet := t.eqSet.set d ((slotOfCode v.toNat).getD 0) }
  | .gain d => { t with gain := t.gain.set d v.toNat }
  | .linkThreshold => { t with linkThreshold := v.toNat }
  | .loadTimeout => { t with loadTimeout := v.toNat }
  | .noticeMask => { t with noticeMask := BitVec.ofNat 12 v.toNat }
  | .indicator i => { t with indicator := t.indicator.set i ((indicatorOfCode v.toNat).getD .low) }
  | .pauseOnLogHigh => { t with pauseOnLogHigh := v == 1 }
  | .trimEnable => { t with trimEnable := v == 1 }
  | .trimSide => { t with trimSide := if v = 1 then .B else .A }
  | .trimDeadband => { t with trimDeadband := v.toNat }

end Sys2Proof.Machine
end

