-- ==== Sys2Proof/Machine/Slots.lean ====
section
/-! DEFINITION. A slot of the profile store as bytes, its check word, and whether it is valid (R178). -/

namespace Sys2Proof.Machine

/-- The settings, the kernel and the EQ sets of a profile, in the order in which R178 lists them: every setting in id
order as four bytes, the 4,096 coefficients as two bytes each, the four sets of 32 coefficients as three bytes each,
every field signed and most significant byte first. The order within a part is 12.5's, R75's and R129's; the widths are
DESIGN CHOICE (log 12). -/
def profileBytes (p : Profile) : List Byte :=
  (allSettings.flatMap fun id => signedBE 4 (settingValue p.settings id))
    ++ (p.kernel.flatMap fun c => signedBE 2 c)
    ++ (p.eqSets.toList.flatMap fun set => set.flatMap fun c => signedBE 3 c)

/-- The rest of a slot, over which its check word is computed: the profile and, where the slot holds one, the serial
number (R178, log 12). -/
def storedBytes (p : Profile) (serial : Option (BitVec 32)) : List Byte :=
  profileBytes p ++
    (match serial with
     | some n => bytesBE 4 n.toNat
     | none => [])

/-- The check word of a slot with these contents: the CRC of R5 over the rest of the slot (R178). -/
def slotCheck (p : Profile) (serial : Option (BitVec 32)) : BitVec 16 := checkWord (storedBytes p serial)

/-- A slot is valid when it holds a profile and its check word equals the CRC computed over its contents (R178). -/
def slotValid (x : Slot) : Bool :=
  match x.profile with
  | some p => x.check == slotCheck p x.serial
  | none => false

/-- A slot with a profile and its check word written into it: a valid slot (R178, R180). -/
def writtenSlot (p : Profile) (serial : Option (BitVec 32)) : Slot := ⟨some p, serial, slotCheck p serial⟩

/-- A slot made invalid, as an accepted save or erase makes it at once and a loss of its contents leaves it: its check
word no longer equals the CRC (R178, R180, R181). Which other word it then holds is log 12's: the complement. -/
def invalidate (x : Slot) : Slot :=
  match x.profile with
  | some p => { x with check := ~~~slotCheck p x.serial }
  | none => x

/-- An erased slot: left empty and invalid (R181). -/
def Slot.erased : Slot where
  profile := none
  serial := none
  check := 0

end Sys2Proof.Machine
end

