-- ==== Sys2Proof/Machine/Factory.lean ====
section
/-! DEFINITION. The factory profile (R76, R129, R178) and the values each block holds after power-on, the
reset line and RESET UNIT. -/

namespace Sys2Proof.Machine

/-- 1.0 of a step: one raw frame in units of 2^-24 frame (00_scope 2.3). -/
def unity : Int := 16777216

/-- The highest raw position (R20). -/
def maxPosition : Nat := 4294967295

/-! ### The factory profile -/

/-- The settings table's factory values (9.4). -/
def factorySettings : Settings where
  laneEnable := Quad.fill true
  direction := ⟨.forward, .reverse⟩
  window := 256
  biasHz := PerSide.both 100000
  speedRange := 4
  slew := 512
  lockCount := 8
  holdLimit := 256
  reference := PerSide.both .auto
  skewMode := PerSide.both .auto
  skewCycles := PerSide.both 0
  threshold := PerSide.both 64
  nIn := 8
  nOut := 32
  twin := PerSide.both false
  repairMode := PerSide.both .pass
  eqSet := PerSide.both 0
  gain := PerSide.both 4096
  linkThreshold := 16
  loadTimeout := 200
  noticeMask := BitVec.allOnes 12
  indicator := ⟨.lockA, .lockB, .dropoutAny, .pauseRequest⟩
  pauseOnLogHigh := false
  trimEnable := false
  trimSide := .A
  trimDeadband := 2048

/-- Rounds the quotient of `n` by a positive `d` half away from zero (R76, the one place it is used). -/
def roundHalfAway (n : Int) (d : Nat) : Int :=
  if 0 ≤ n then (((2 * n.toNat + d) / (2 * d) : Nat) : Int)
  else -(((2 * (-n).toNat + d) / (2 * d) : Nat) : Int)

/-- The four coefficients of the cubic Lagrange interpolator at phase `p` (R76), f = p/1024, scaled by 16,384:
each fraction is written over the common power of two. -/
def lagrange (p : Nat) : List Int :=
  let x : Int := p
  [roundHalfAway (-(x * (x - 1024) * (x - 2048))) 393216,
   roundHalfAway ((x + 1024) * (x - 1024) * (x - 2048)) 131072,
   roundHalfAway (-((x + 1024) * x * (x - 2048))) 131072,
   roundHalfAway ((x + 1024) * x * (x - 1024)) 393216]

/-- The coefficients of `n` phases from phase `p` on, in the order of R75. -/
def kernelFrom : Nat → Nat → List Int
  | 0, _ => []
  | n + 1, p => lagrange p ++ kernelFrom n (p + 1)

/-- The factory kernel: 1,024 phases of four coefficients (R75, R76). -/
def factoryKernel : List Int := kernelFrom 1024 0

/-- A factory EQ set: h[31] is 1,048,576 and every other coefficient 0 (R129). -/
def flatEq : List Int := List.replicate 31 0 ++ [1048576]

/-- The factory profile (R178), also built into the part (R184). -/
def factoryProfile : Profile where
  settings := factorySettings
  kernel := factoryKernel
  eqSets := Quad.fill flatEq

/-! ### Values after a unit reset -/

/-- R34, the column of reset values. -/
def Tracker.reset : Tracker where
  state := .idle
  ringFirst := []
  ringSecond := []
  appliedStep := unity
  targetStep := unity
  validRun := 0
  holdCount := 0
  skewAverage := 0
  skewInForce := 0
  force := .none

/-- R60. -/
def Resampler.reset : Resampler where
  readPos := 0
  frameNumber := 0
  cursor := 0
  lag := 128
  exhausted := false

/-- R80. -/
def Detector.reset : Detector where
  state := .clear
  count := 0
  start := 0
  lowest := 255
  gap := false

/-- R93. -/
def Repair.reset : Repair where
  lastGood := none
  holdGain := 32767
  inRun := false

/-- R127, per lane. -/
def EqLane.reset : EqLane where
  line := List.replicate 63 0
  records := List.replicate 63 none

/-- R127, per side. -/
def EqSide.reset : EqSide where
  frames := List.replicate 31 none
  fill := 0
  flushing := false

/-- R115. -/
def Walker.reset : Walker where
  cursor := 0
  running := false
  next := none
  active := Quad.fill []

/-- R104 and R115: no entries, walkers stopped. -/
def CorrectionMap.reset : CorrectionMap where
  entries := []
  intakeWalker := Walker.reset
  sideWalker := PerSide.both Walker.reset

/-- R169. -/
def Stager.reset : Stager where
  loading := false
  table := none
  expected := 0
  next := 0
  sum := 0
  timer := none
  staging := List.replicate 4096 0
  install := .none

/-- R150: every counter 0. -/
def Counters.zero : Counters where
  receivedU := 0
  receivedD := 0
  checkErrorsU := 0
  checkErrorsD := 0
  malformed := 0
  streamGaps := 0
  streamBreaks := 0
  rawDiscarded := 0
  directivesRefused := 0
  directivesDropped := 0
  forwardedDropped := 0
  unloggedDropouts := 0
  cuesDropped := 0
  outputFrames := PerSide.both 0
  lockAcquisitions := PerSide.both 0
  timeBaseLosses := PerSide.both 0
  heldParcels := PerSide.both 0
  cleanDiscarded := PerSide.both 0
  framesAdmitted := Quad.fill 0
  dropoutsClosed := Quad.fill 0
  markedFrames := Quad.fill 0
  repairedSamples := Quad.fill 0
  damagedUnrepaired := Quad.fill 0
  clippedSamples := Quad.fill 0

/-- The pending settings as the table holds them (R24). -/
def Settings.pending (t : Settings) : Applied where
  laneEnable := t.laneEnable
  direction := t.direction
  window := t.window

/-- R21, R25, R28 and 2.7. The applied settings stand at the factory values until the autoload applies its
own: DESIGN CHOICE (log 8). -/
def Intake.reset : Intake where
  transport := .stop
  running := false
  passNumber := 0
  passStart := 0
  position := 0
  expected := none
  applied := factorySettings.pending

/-- R152. -/
def Arbiter.reset : Arbiter where
  nextSide := .A
  owed := false
  sending := none

/-- R187 to R190: duty 128, on the line at once (log 21); line levels are set from their sources. -/
def LineUnit.reset : LineUnit where
  pauseRequest := false
  trimCount := 0
  trimSum := 0
  allLocked := true
  duty := 128
  lineDuty := 128
  levels := Quad.fill false

/-- The store as manufactured: slot 0 holds the factory profile and the serial number, and the header names
it (R178). DESIGN CHOICE (log 8): slots 1 to 3 erased. -/
def ProfileStore.manufactured : ProfileStore where
  slots := ⟨writtenSlot factoryProfile (some Config.serialNumber), Slot.erased, Slot.erased, Slot.erased⟩
  header := 0
  state := .idle
  elapsed := 0

end Sys2Proof.Machine
end

