-- ==== Sys2Proof/Machine/State.lean ====
section
/-! DEFINITION. The state of the K430, the reasons a command could stop (there are none), and the state right
after power-on. -/

namespace Sys2Proof.Machine

/-- Everything the spec gives the part, block by block, and the queue of commands that wait. -/
structure State where
  unit : UnitRegs
  link : LinkBlock
  intake : Intake
  /-- The lane history, one ring per lane (R30). -/
  history : Quad Ring
  trackers : PerSide Tracker
  resamplers : PerSide Resampler
  detectors : Quad Detector
  repairs : Quad Repair
  eqLanes : Quad EqLane
  eqSides : PerSide EqSide
  /-- The frames of the partial CLEAN parcel of each side, oldest first (R138). -/
  partials : PerSide (List CleanFrame)
  /-- The clean queue of each side, head first (R140). -/
  cleanQueues : PerSide (List CleanParcel)
  map : CorrectionMap
  /-- The damage log, head first (R142). -/
  log : List DamageRecord
  /-- The event flags: bit n stands for event kind n (R145, 12.2). -/
  flags : BitVec 12
  /-- The notice queue, head first (R147). -/
  notices : List Notice
  /-- The cue queue, head first (R149). -/
  cues : List Cue
  counters : Counters
  arbiter : Arbiter
  /-- The directive queue, head first (R159). -/
  directives : List Answer
  settings : Settings
  stager : Stager
  /-- The kernel in use (R75). -/
  kernel : List Int
  /-- The EQ sets in use (R131). -/
  eqSets : Quad (List Int)
  store : ProfileStore
  lines : LineUnit
  /-- The model's own: where the free values are read next (log 10). -/
  freeCount : Nat
  /-- The model's own: the commands that wait, first in, first out. -/
  pending : List Instr
  deriving DecidableEq, Repr

/-- Faults. The spec describes no fault that stops the part, so there is no constructor: nobody raises one. -/
inductive Fault where
  deriving DecidableEq, Repr

/-- Refusals. -/
inductive Refusal where
  /-- A command whose meaning has not been written. Raised by exec's arm alone, and by no arm of the finished
  model. Safe: the machine stops. -/
  | notModelled (mnemonic : String)
  deriving DecidableEq, Repr

/-- The machine right after power-on with the strap pins low: the unit reset is made and start-up has begun,
with the autoload still to come (R183, log 7). -/
def State.reset : State where
  unit :=
    { phase := .startUp
      startUpMs := 0
      resetCause := .power
      autoload := .default
      serial := 0
      strapAddress := 0
      unitAddress := 0
      straps := 0
      resetLine := false }
  link :=
    { alive := ⟨false, false⟩
      link := ⟨.down, .down⟩
      errors := ⟨0, 0⟩
      upstream := []
      sendingU := none
      downstream := [] }
  intake := Intake.reset
  history := Quad.fill []
  trackers := PerSide.both Tracker.reset
  resamplers := PerSide.both Resampler.reset
  detectors := Quad.fill Detector.reset
  repairs := Quad.fill Repair.reset
  eqLanes := Quad.fill EqLane.reset
  eqSides := PerSide.both EqSide.reset
  partials := PerSide.both []
  cleanQueues := PerSide.both []
  map := CorrectionMap.reset
  log := []
  flags := 0
  notices := []
  cues := []
  counters := Counters.zero
  arbiter := Arbiter.reset
  directives := []
  settings := factorySettings
  stager := Stager.reset
  kernel := factoryKernel
  eqSets := Quad.fill flatEq
  store := ProfileStore.manufactured
  lines := LineUnit.reset
  freeCount := 0
  pending := []

end Sys2Proof.Machine
end

