-- ==== Sys2Proof/Machine/Flags.lean ====
section
/-! DEFINITION. The flag sets: the flags of an output sample (R101, 12.3) and the event flags (R145, R146). -/

namespace Sys2Proof.Machine

/-- No flag set and repair method none. -/
def FlagSet.none : FlagSet where
  damaged := false
  repaired := false
  method := .none
  twinUnavailable := false
  gap := false
  tbUnlocked := false
  clipped := false
  tail := false
  laneOff := false

/-- LANE_OFF alone (R135). -/
def FlagSet.laneOffOnly : FlagSet := { FlagSet.none with laneOff := true }

/-- The value of one flag at its bit. -/
def bitAt (b : Bool) (n : Nat) : Nat := if b then 2 ^ n else 0

/-- The two bytes of a flag set, as one number (12.3). -/
def FlagSet.word (f : FlagSet) : Nat :=
  bitAt f.damaged 0 + bitAt f.repaired 1 + 4 * repairMethodCode f.method + bitAt f.twinUnavailable 4
    + bitAt f.gap 5 + bitAt f.tbUnlocked 6 + bitAt f.clipped 7 + bitAt f.tail 8 + bitAt f.laneOff 9

/-- The set holding one event kind (12.2). -/
def EventKind.mask (k : EventKind) : BitVec 12 := BitVec.twoPow 12 k.code

/-- Whether a set of event kinds holds a kind (12.2). -/
def holdsEvent (set : BitVec 12) (k : EventKind) : Bool := set.getLsbD k.code

/-- Raises an event (R146). Its flag becomes set. A notice joins the tail of the notice queue when the flag
was clear, the kind's mask bit is on, and no notice of the kind waits. -/
def raise (k : EventKind) (s : State) : State :=
  { s with
    flags := s.flags ||| k.mask
    notices :=
      if !holdsEvent s.flags k && holdsEvent s.settings.noticeMask k && !(s.notices.any fun n => n.kind = k) then
        s.notices ++ [⟨k, s.intake.passNumber, s.intake.position⟩]
      else s.notices }

/-- Clears the flags of a set of event kinds in one step (R148). -/
def clearFlags (set : BitVec 12) (s : State) : State :=
  { s with flags := s.flags &&& ~~~set }

/-- Whether some event flag is set whose mask bit is on (R186, EVENT_PENDING). -/
def eventPending (s : State) : Bool := (s.flags &&& s.settings.noticeMask) != 0

end Sys2Proof.Machine
end

