-- ==== Sys2Proof/Machine/Operands.lean ====
section
/-! DEFINITION. Parcels as bytes: the layouts of Chapter 12, the seven receiver tests (R4 to R7), the command a
good parcel spells, and the parcel that spells a command. -/

namespace Sys2Proof.Machine

/-! ### Kind codes and lengths (12.1, 12.4) -/

def kindRaw : Byte := 0x11
def kindDeck : Byte := 0x12
def kindReport : Byte := 0x13
def kindDirective : Byte := 0x31
def kindClean : Byte := 0x41
def kindAnswer : Byte := 0x42
def kindNotice : Byte := 0x43
def kindCue : Byte := 0x44
def kindDamage : Byte := 0x45

/-- The lead byte (12.1). -/
def leadByte : Byte := 0x5C

/-- The nine parcel kinds (R6 test 4). -/
def kindKnown (k : Byte) : Bool :=
  [kindRaw, kindDeck, kindReport, kindDirective, kindClean, kindAnswer, kindNotice, kindCue, kindDamage].contains k

/-- The kinds each port receives (R3). -/
def kindReceivedOn (p : Port) (k : Byte) : Bool :=
  match p with
  | .U => [kindRaw, kindDeck, kindReport].contains k
  | .D => k == kindDirective

/-- The fixed body length of each directive kind the K430 knows (12.4). -/
def directiveLength (kind : Nat) : Option Nat :=
  match kind with
  | 0x01 => some 1
  | 0x02 => some 1
  | 0x03 => some 2
  | 0x04 => some 2
  | 0x05 => some 6
  | 0x10 => some 15
  | 0x11 => some 3
  | 0x12 => some 3
  | 0x13 => some 1
  | 0x20 => some 2
  | 0x21 => some 130
  | 0x22 => some 5
  | 0x23 => some 1
  | 0x30 => some 3
  | 0x31 => some 2
  | 0x40 => some 3
  | 0x41 => some 2
  | 0x42 => some 2
  | 0x50 => some 1
  | 0x51 => some 1
  | _ => none

/-- The broadcast unit address (R12). -/
def broadcast : BitVec 6 := 63

/-- The unit address in byte 2 of a header: its low six bits, the top two ignored (R192). -/
def addressIn (b : Byte) : BitVec 6 := b.setWidth 6

/-- Byte 2 of an originated parcel: the unit address with the top two bits 0 (R192). -/
def addressByte (a : BitVec 6) : Byte := a.setWidth 8

/-- Whether a directive with this address byte is meant for the unit with address `unit` (R12). -/
def meantFor (unit : BitVec 6) (addr : Byte) : Bool :=
  addressIn addr == unit || addressIn addr == broadcast

/-- The directive kind a DIRECTIVE body carries; an empty body is taken to carry kind 0 (R192). -/
def directiveKind (body : List Byte) : Byte := body.headD 0

/-- Whether the body length is one the kind allows (R7, 12.1). -/
def lengthAllowed (unit : BitVec 6) (kind addr : Byte) (body : List Byte) : Bool :=
  if kind = kindRaw then body.length == 516
  else if kind = kindDeck then body.length == 1
  else if kind = kindReport then decide (body.length ≤ 256)
  else if meantFor unit addr then
    match directiveLength (directiveKind body).toNat with
    | some n => body.length == n
    | none => decide (body.length ≤ 256)
  else decide (body.length ≤ 256)

/-! ### Bytes of a parcel -/

/-- Header and body, in the order in which the bytes travel (12.1). -/
def Parcel.content (p : Parcel) : List Byte :=
  [leadByte, p.kind, p.addr, p.tag] ++ bytesBE 2 p.body.length ++ p.body

/-- The whole byte sequence: header, body and check word (R4, R5, R192). -/
def Parcel.bytes (p : Parcel) : List Byte :=
  p.content ++ bytesBE 2 (checkWord p.content).toNat

/-! ### The receiver's tests (R6) -/

/-- The seven tests, in order (R6). -/
inductive ReceiverTest where
  | longEnough
  | check
  | lead
  | kind
  | port
  | length
  | allowed
  deriving DecidableEq, Repr

/-- What a receiver finds of a delivered byte sequence: the first test it fails, or a good parcel. -/
inductive Tested where
  | failed (t : ReceiverTest)
  | good (p : Parcel)
  deriving DecidableEq, Repr

/-- Tests 3 to 7, over header and body (R6). -/
def testContent (unit : BitVec 6) (port : Port) (content : List Byte) : Tested :=
  match content with
  | lead :: kind :: addr :: tag :: l1 :: l0 :: body =>
    if lead ≠ leadByte then .failed .lead
    else if !kindKnown kind then .failed .kind
    else if !kindReceivedOn port kind then .failed .port
    else if natBE [l1, l0] ≠ body.length then .failed .length
    else if !lengthAllowed unit kind addr body then .failed .allowed
    else .good ⟨kind, addr, tag, body⟩
  | _ => .failed .longEnough

/-- The tests of R6 over a delivered sequence (R4): the last two bytes are the check word, tested before the
header is trusted. -/
def testParcel (unit : BitVec 6) (port : Port) (bytes : List Byte) : Tested :=
  if bytes.length < 8 then .failed .longEnough
  else
    let content := bytes.take (bytes.length - 2)
    if natBE (bytes.drop (bytes.length - 2)) ≠ (checkWord content).toNat then .failed .check
    else testContent unit port content

/-! ### The command a good parcel spells -/

/-- One lane record of a RAW body (12.3); bits 1 to 7 of its last byte are unassigned and ignored (R193). -/
def laneSampleAt (body : List Byte) (start : Nat) : LaneSample where
  sample := wordAt 24 body start 3
  stamp := wordAt 24 body (start + 3) 3
  level := wordAt 8 body (start + 6) 1
  valid := (wordAt 8 body (start + 7) 1).getLsbD 0

/-- The 16 frames of a RAW body (12.3). -/
def framesOf (body : List Byte) : Vector RawFrame 16 :=
  Vector.ofFn fun f => Quad.tabulate fun l => laneSampleAt body (4 + 8 * (4 * f.val + l.val))

/-- The 32 words of a LOAD CHUNK body (12.4). -/
def wordsOf (body : List Byte) : Vector (BitVec 32) 32 :=
  Vector.ofFn fun i => wordAt 32 body (2 + 4 * i.val) 4

/-- The command a DIRECTIVE body meant for this unit spells (12.4). -/
def directiveCommand (h : Header) (body : List Byte) : Instr :=
  match (directiveKind body).toNat with
  | 0x01 => .identify h
  | 0x02 => .status h
  | 0x03 => .setAddress h (wordAt 8 body 1 1)
  | 0x04 => .readSetting h (wordAt 8 body 1 1)
  | 0x05 => .writeSetting h (wordAt 8 body 1 1) (wordAt 32 body 2 4)
  | 0x10 => .mapInsert h (wordAt 8 body 1 1) (wordAt 8 body 2 1) (wordAt 32 body 3 4) (wordAt 32 body 7 4) (wordAt 32 body 11 4)
  | 0x11 => .mapDelete h (wordAt 16 body 1 2)
  | 0x12 => .mapRead h (wordAt 16 body 1 2)
  | 0x13 => .mapClear h
  | 0x20 => .loadBegin h (wordAt 8 body 1 1)
  | 0x21 => .loadChunk h (wordAt 8 body 1 1) (wordsOf body)
  | 0x22 => .loadEnd h (wordAt 32 body 1 4)
  | 0x23 => .loadCancel h
  | 0x30 => .ackEvents h (wordAt 16 body 1 2)
  | 0x31 => .snapshotCounters h (wordAt 8 body 1 1)
  | 0x40 => .profileSave h (wordAt 8 body 1 1) (wordAt 8 body 2 1)
  | 0x41 => .profileRecall h (wordAt 8 body 1 1)
  | 0x42 => .profileErase h (wordAt 8 body 1 1)
  | 0x50 => .resetEngine h
  | 0x51 => .resetUnit h
  | _ => .unknownDirective h body

/-- The command a good parcel spells, a DIRECTIVE by its unit address (R3, R12). -/
def commandOf (unit : BitVec 6) (p : Parcel) : Instr :=
  if p.kind = kindRaw then .rawParcel (wordAt 32 p.body 0 4) (framesOf p.body)
  else if p.kind = kindDeck then .deckParcel ⟨p.addr, p.tag⟩ (directiveKind p.body)
  else if p.kind = kindReport then .converterReport ⟨p.addr, p.tag⟩ p.body
  else if meantFor unit p.addr then directiveCommand ⟨p.addr, p.tag⟩ p.body
  else .directiveForOtherUnit ⟨p.addr, p.tag⟩ p.body

/-! ### The parcel that spells a command -/

/-- One lane record of a RAW body (12.3). -/
def laneSampleBytes (x : LaneSample) : List Byte :=
  bytesBE 3 x.sample.toNat ++ bytesBE 3 x.stamp.toNat ++ [x.level, if x.valid then 1 else 0]

/-- The lane records of one frame, lane 0 to lane 3 (12.3). -/
def frameBytes (f : RawFrame) : List Byte :=
  laneSampleBytes f.q0 ++ laneSampleBytes f.q1 ++ laneSampleBytes f.q2 ++ laneSampleBytes f.q3

/-- The DIRECTIVE body of each directive command: its kind and its arguments (12.4); empty for a command that
is no directive. -/
def directiveBody : Instr → List Byte
  | .identify _ => [0x01]
  | .status _ => [0x02]
  | .setAddress _ a => [0x03, a]
  | .readSetting _ id => [0x04, id]
  | .writeSetting _ id v => [0x05, id] ++ bytesBE 4 v.toNat
  | .mapInsert _ cls lanes start stop param =>
    [0x10, cls, lanes] ++ bytesBE 4 start.toNat ++ bytesBE 4 stop.toNat ++ bytesBE 4 param.toNat
  | .mapDelete _ id => [0x11] ++ bytesBE 2 id.toNat
  | .mapRead _ n => [0x12] ++ bytesBE 2 n.toNat
  | .mapClear _ => [0x13]
  | .loadBegin _ t => [0x20, t]
  | .loadChunk _ index words => [0x21, index] ++ words.toList.flatMap fun w => bytesBE 4 w.toNat
  | .loadEnd _ sum => [0x22] ++ bytesBE 4 sum.toNat
  | .loadCancel _ => [0x23]
  | .ackEvents _ set => [0x30] ++ bytesBE 2 set.toNat
  | .snapshotCounters _ c => [0x31, c]
  | .profileSave _ slot m => [0x40, slot, m]
  | .profileRecall _ slot => [0x41, slot]
  | .profileErase _ slot => [0x42, slot]
  | .resetEngine _ => [0x50]
  | .resetUnit _ => [0x51]
  | .unknownDirective _ body => body
  | .directiveForOtherUnit _ body => body
  | _ => []

/-- The header of a directive command. -/
def directiveHeader : Instr → Option Header
  | .identify h => some h
  | .status h => some h
  | .setAddress h _ => some h
  | .readSetting h _ => some h
  | .writeSetting h _ _ => some h
  | .mapInsert h _ _ _ _ _ => some h
  | .mapDelete h _ => some h
  | .mapRead h _ => some h
  | .mapClear h => some h
  | .loadBegin h _ => some h
  | .loadChunk h _ _ => some h
  | .loadEnd h _ => some h
  | .loadCancel h => some h
  | .ackEvents h _ => some h
  | .snapshotCounters h _ => some h
  | .profileSave h _ _ => some h
  | .profileRecall h _ => some h
  | .profileErase h _ => some h
  | .resetEngine h => some h
  | .resetUnit h => some h
  | .unknownDirective h _ => some h
  | .directiveForOtherUnit h _ => some h
  | _ => none

/-- The parcel that spells a command, for the commands a parcel spells. The header of a RAW parcel is not
examined (R13) and is written 0 here. -/
def parcelOf (i : Instr) : Option Parcel :=
  match i with
  | .rawParcel first frames =>
    some ⟨kindRaw, 0, 0, bytesBE 4 first.toNat ++ frames.toList.flatMap frameBytes⟩
  | .deckParcel h code => some ⟨kindDeck, h.addr, h.tag, [code]⟩
  | .converterReport h body => some ⟨kindReport, h.addr, h.tag, body⟩
  | i => (directiveHeader i).map fun h => ⟨kindDirective, h.addr, h.tag, directiveBody i⟩

end Sys2Proof.Machine
end

