-- ==== Sys2Proof/Machine/Ops.lean ====
section
/-! DEFINITION. The named operations on the state that several blocks share: exact arithmetic, counters, the lane
history, the damage log, the forward queues, the link-error counts. -/

namespace Sys2Proof.Machine

/-! ### Arithmetic (00_scope 2.4) -/

/-- Replaces a value outside the 24-bit sample range by the nearer limit. -/
def saturate (x : Int) : Int := max (-8388608) (min 8388607 x)

/-- Replaces a value outside a range by the nearer limit. -/
def clamp (lo hi x : Int) : Int := max lo (min hi x)

/-! ### Counters (R150) -/

/-- A counter's value after `n` increments: it stays at 4,294,967,295 when incremented there. -/
def countUp (c : BitVec 32) (n : Nat) : BitVec 32 := BitVec.ofNat 32 (min (c.toNat + n) 4294967295)

/-- Changes the counters. -/
def withCounters (f : Counters → Counters) (s : State) : State := { s with counters := f s.counters }

/-- One more for a counter kept per port: parcels received (R8). -/
def countReceived (p : Port) (s : State) : State :=
  match p with
  | .U => withCounters (fun c => { c with receivedU := countUp c.receivedU 1 }) s
  | .D => withCounters (fun c => { c with receivedD := countUp c.receivedD 1 }) s

/-- One more check error on a port (R8). -/
def countCheckError (p : Port) (s : State) : State :=
  match p with
  | .U => withCounters (fun c => { c with checkErrorsU := countUp c.checkErrorsU 1 }) s
  | .D => withCounters (fun c => { c with checkErrorsD := countUp c.checkErrorsD 1 }) s

/-- One more malformed parcel (R8). -/
def countMalformed (s : State) : State :=
  withCounters (fun c => { c with malformed := countUp c.malformed 1 }) s

/-- One more forwarded parcel dropped (R14, R15). -/
def countForwardDropped (s : State) : State :=
  withCounters (fun c => { c with forwardedDropped := countUp c.forwardedDropped 1 }) s

/-- Whether the part has power and is not held in reset: its ports follow their alive signals and its lines are driven
(R1, R191). -/
def outOfReset (s : State) : Bool := s.unit.phase == .startUp || s.unit.phase == .running

/-! ### The applied composition (R23) -/

/-- A lane is in use when it is enabled in the applied lane enables: its side is then enabled. -/
def inUse (s : State) (l : Lane) : Bool := s.intake.applied.laneEnable.get l

/-- The lanes in use, in lane order. -/
def lanesInUse (s : State) : List Lane := allLanes.filter (inUse s)

/-- A side is enabled when at least one of its lanes is. -/
def sideEnabled (s : State) (d : Side) : Bool := inUse s (firstLane d) || inUse s (secondLane d)

/-- Whether a side's tracker is other than IDLE. -/
def sideActive (s : State) (d : Side) : Bool := (s.trackers.get d).state != .idle

/-- Sets the applied values from the settings table (R24). -/
def applyPending (s : State) : State :=
  { s with intake := { s.intake with applied := s.settings.pending } }

/-! ### The lane history (R30) -/

/-- A cleared entry: it reads as a frame filled for a gap. -/
def cleared : HistEntry where
  sample := 0
  stamp := 0
  level := 0
  valid := false
  damaged := false
  gap := true

/-- The entry at an index; an index with none listed reads as a cleared entry. -/
def ringRead : Ring → Nat → HistEntry
  | [], _ => cleared
  | (j, e) :: rest, i => if i = j then e else ringRead rest i

/-- Puts an entry in front, unless it is what an unlisted index reads as. -/
def ringCons (i : Nat) (e : HistEntry) (r : Ring) : Ring := if e = cleared then r else (i, e) :: r

/-- Writes the entry at an index, keeping the canonical form. -/
def ringWrite : Ring → Nat → HistEntry → Ring
  | [], i, e => ringCons i e []
  | (j, x) :: rest, i, e =>
    if i < j then ringCons i e ((j, x) :: rest)
    else if i = j then ringCons i e rest
    else (j, x) :: ringWrite rest i e

/-- The canonical form of one ring: indexes strictly rising and below 2,048, no cleared entry listed. -/
abbrev Ring.wf (r : Ring) : Prop :=
  r.Pairwise (fun x y => x.1 < y.1) ∧ ∀ x ∈ r, x.1 < 2048 ∧ x.2 ≠ cleared

/-- The canonical form of the whole lane history. -/
abbrev Memory.wf (h : Quad Ring) : Prop := ∀ l : Lane, Ring.wf (h.get l)

/-- The ring index of a raw position: position mod 2,048 (R30). -/
def ringIndex (pos : Nat) : Nat := pos % 2048

/-- The history entry of a lane for a raw position. -/
def historyAt (s : State) (l : Lane) (pos : Nat) : HistEntry := ringRead (s.history.get l) (ringIndex pos)

/-- Writes the history entry of a lane for a raw position. -/
def writeHistory (l : Lane) (pos : Nat) (e : HistEntry) (s : State) : State :=
  { s with history := s.history.modify l fun r => ringWrite r (ringIndex pos) e }

/-- A source frame as the resampler reads it: below the pass start position a cleared entry, whatever the
ring holds (R68). -/
def sourceFrame (s : State) (l : Lane) (pos : Int) : HistEntry :=
  if pos < (s.intake.passStart : Int) then cleared else historyAt s l pos.toNat

/-- Sets the damage mark of a frame's entry and counts it (R88). -/
def markFrame (l : Lane) (pos : Nat) (s : State) : State :=
  withCounters (fun c => { c with markedFrames := c.markedFrames.modify l (countUp · 1) })
    (writeHistory l pos { historyAt s l pos with damaged := true } s)

/-- Marks the `count` frames from a position on (R85, R88). -/
def markRun (l : Lane) : Nat → Nat → State → State
  | _, 0, s => s
  | pos, count + 1, s => markRun l (pos + 1) count (markFrame l pos s)

/-! ### The damage log and the pause request (R143, R187) -/

/-- Appends a record to the log by its occupancy. -/
def appendDamage (r : DamageRecord) (s : State) : State :=
  if 64 ≤ s.log.length then
    raise .logFull (withCounters (fun c => { c with unloggedDropouts := countUp c.unloggedDropouts 1 }) s)
  else
    let t := { s with log := s.log ++ [r] }
    if s.log.length = 47 then
      raise .logHigh
        { t with lines := { t.lines with pauseRequest := t.lines.pauseRequest || t.settings.pauseOnLogHigh } }
    else t

/-- The head record leaves the log; a removal that brings the occupancy to 16 releases the pause request. -/
def removeDamage (s : State) : State :=
  { s with
    log := s.log.tail
    lines := { s.lines with
      pauseRequest := s.lines.pauseRequest && !(!s.log.isEmpty && s.log.tail.length == 16) } }

/-! ### The forward queues (R14, R15) -/

/-- Offers a directive to the upstream forward queue. -/
def offerUpstream (p : Parcel) (s : State) : State :=
  if s.link.upstream.length < 4 then { s with link := { s.link with upstream := s.link.upstream ++ [p] } }
  else countForwardDropped s

/-- Offers a converter's parcel to the downstream forward queue. -/
def offerDownstream (p : Parcel) (s : State) : State :=
  if s.link.downstream.length < 4 then { s with link := { s.link with downstream := s.link.downstream ++ [p] } }
  else countForwardDropped s

/-! ### Link-error counts (R9, R10) -/

/-- Raises LINK_DEGRADED when a count stands at or above the link error threshold. -/
def compareLinkErrors (s : State) : State :=
  if s.settings.linkThreshold ≤ s.link.errors.u ∨ s.settings.linkThreshold ≤ s.link.errors.d then
    raise .linkDegraded s
  else s

/-- One more link error on a port, up to 65,535, and the comparison of that port's count (R9). -/
def addLinkError (p : Port) (s : State) : State :=
  let n := min (s.link.errors.get p + 1) 65535
  let t := { s with link := { s.link with errors := s.link.errors.set p n } }
  if t.settings.linkThreshold ≤ n then raise .linkDegraded t else t

/-- A parcel fails a receiver test: it is dropped and counted under that test alone (R6, R8, R9). -/
def dropParcel (p : Port) (t : ReceiverTest) (s : State) : State :=
  addLinkError p (match t with
    | .check => countCheckError p s
    | _ => countMalformed s)

/-! ### Cues (R124) -/

/-- Appends a cue report, or drops and counts it when the queue holds 16. -/
def appendCue (c : Cue) (s : State) : State :=
  if s.cues.length < 16 then { s with cues := s.cues ++ [c] }
  else withCounters (fun k => { k with cuesDropped := countUp k.cuesDropped 1 }) s

end Sys2Proof.Machine
end

