-- ==== Sys2Proof/Machine/Map.lean ====
section
/-! DEFINITION. The correction map (Chapter 6): entries, the locked span, the insert checks, the walkers and what
their edges do to the trackers and the cue queue. -/

namespace Sys2Proof.Machine

/-! ### Entries (R104 to R106) -/

/-- Whether an entry's lane set holds a lane. -/
def MapEntry.hasLane (e : MapEntry) (l : Lane) : Bool := e.lanes.getLsbD l.val

/-- Whether an entry covers a lane at a raw position (R104). -/
def MapEntry.covers (e : MapEntry) (l : Lane) (x : Nat) : Bool :=
  e.hasLane l && decide (e.start ≤ x) && decide (x < e.stop)

/-- Map order: by start, ties by id (R106). -/
def mapBefore (e f : MapEntry) : Bool :=
  decide (e.start < f.start) || (e.start == f.start && decide (e.id < f.id))

/-- Puts an entry at the place its start and id give it (R106). -/
def insertEntry (e : MapEntry) : List MapEntry → List MapEntry
  | [] => [e]
  | f :: rest => if mapBefore e f then e :: f :: rest else f :: insertEntry e rest

/-- The entry with an id. -/
def entryById (es : List MapEntry) (id : Nat) : Option MapEntry := es.find? (·.id == id)

/-- The lowest id from `n` ids on, starting at `i`, that no entry holds. -/
def freeIdFrom (es : List MapEntry) : Nat → Nat → Option Nat
  | _, 0 => none
  | i, n + 1 => if es.any (·.id == i) then freeIdFrom es (i + 1) n else some i

/-- The lowest id that no entry holds (R106). -/
def freeId (es : List MapEntry) : Option Nat := freeIdFrom es 0 512

/-! ### What a walker considers (R116) -/

/-- Whether the walker of a side considers an entry. -/
def consideredBySide (d : Side) (e : MapEntry) : Bool :=
  e.cls != .threshold && (e.hasLane (firstLane d) || e.hasLane (secondLane d))

/-- Whether the intake walker considers an entry. -/
def consideredByIntake (e : MapEntry) : Bool := e.cls == .threshold

/-- The first considered entry, in map order, whose start lies above a position. -/
def nextConsidered (es : List MapEntry) (considered : MapEntry → Bool) (x : Nat) : Option Nat :=
  (es.find? fun e => considered e && decide (x < e.start)).map (·.id)

/-- Adds an id to the active sets of the named lanes. -/
def addActive (a : Quad (List Nat)) (ls : List Lane) (id : Nat) : Quad (List Nat) :=
  ls.foldl (fun q l => q.modify l (· ++ [id])) a

/-- Removes an id from every active set. -/
def dropActive (a : Quad (List Nat)) (id : Nat) : Quad (List Nat) :=
  Quad.tabulate fun l => (a.get l).filter (· != id)

/-- Whether an id stands in some active set. -/
def isActive (a : Quad (List Nat)) (id : Nat) : Bool := allLanes.any fun l => (a.get l).contains id

/-- The lanes a side's walker considers an entry on. -/
def lanesOnSide (d : Side) (e : MapEntry) : List Lane := (lanesOf d).filter e.hasLane

/-- The lanes of an entry. -/
def lanesOfEntry (e : MapEntry) : List Lane := allLanes.filter e.hasLane

/-! ### The locked span (R107) -/

/-- The lowest output cursor of the sides that are not IDLE; the intake cursor when neither is enabled. -/
def lowEnd (s : State) : Nat :=
  match sideActive s .A, sideActive s .B with
  | true, true => min s.resamplers.a.cursor s.resamplers.b.cursor
  | true, false => s.resamplers.a.cursor
  | false, true => s.resamplers.b.cursor
  | false, false => s.map.intakeWalker.cursor

/-- The intake position plus 4,096, which may lie above the highest raw position. -/
def horizon (s : State) : Nat := s.intake.position + 4096

/-- Whether a range intersects the locked span; there is none while no pass runs. -/
def intersectsSpan (s : State) (start stop : Nat) : Bool :=
  s.intake.running && decide (start < horizon s) && decide (lowEnd s < stop)

/-- The span block of a map answer (12.4); with no pass running the last nine bytes are 0. -/
def spanBlock (s : State) : List Byte :=
  if s.intake.running then [1] ++ bytesBE 4 (lowEnd s) ++ bytesBE 5 (horizon s)
  else List.replicate 10 0

/-! ### The insert checks (R109 to R111) -/

/-- Whether a lane set is exactly the two lanes of one side. -/
def wholeSide (lanes : Byte) : Bool := lanes == 0x03 || lanes == 0x0C

/-- Whether a lane set lies within one side. -/
def withinSide (lanes : Byte) : Bool := (lanes &&& 0x03) == lanes || (lanes &&& 0x0C) == lanes

/-- The class rules of a lane set and a parameter (R110). -/
def classRules (cls : MapClass) (lanes : Byte) (param : BitVec 32) : Bool :=
  match cls with
  | .threshold => decide (param.toNat ≤ 255)
  | .repair => (repairModeOfCode param.toNat).isSome
  | .timebase => wholeSide lanes && decide (param.toNat ≤ 1)
  | .skew => wholeSide lanes && decide (-134217728 ≤ param.toInt) && decide (param.toInt ≤ 134217728)
  | .gain => decide (param.toNat ≤ 65535)
  | .eqset => decide (param.toNat ≤ 3)
  | .note => withinSide lanes && decide (param.toNat ≤ 65535)

/-- The FORM check (R110): the class when the fields obey every rule. -/
def formCheck (cls lanes : Byte) (start stop param : BitVec 32) : Option MapClass :=
  match mapClassOfCode cls.toNat with
  | some c =>
    if lanes != 0 && decide (lanes.toNat ≤ 15) && classRules c lanes param && decide (start.toNat < stop.toNat) then
      some c
    else none
  | none => none

/-- The CONFLICT check (R111): some entry of the class shares a lane and overlaps. -/
def conflicts (es : List MapEntry) (e : MapEntry) : Bool :=
  es.any fun f =>
    f.cls == e.cls && (f.lanes &&& e.lanes) != 0 && decide (e.start < f.stop) && decide (f.start < e.stop)

/-- How many entries cover a lane at a position. -/
def coverCount (es : List MapEntry) (l : Lane) (x : Nat) : Nat := (es.filter (·.covers l x)).length

/-- The positions at which the cover count of a range can be greatest: its start, and the starts of entries
within it (log 24). -/
def countPoints (es : List MapEntry) (e : MapEntry) : List Nat :=
  e.start :: (es.map (·.start)).filter fun x => decide (e.start ≤ x) && decide (x < e.stop)

/-- The CROWDED check (R111): with the entry added some lane would be covered more than 4 times. -/
def crowded (es : List MapEntry) (e : MapEntry) : Bool :=
  allLanes.any fun l => e.hasLane l && (countPoints es e).any fun x => decide (4 < coverCount es l x + 1)

/-! ### Edges at a side's output cursor (R50 to R52, R118, R124) -/

/-- A TIMEBASE entry becomes active: it forces a tracker that is not IDLE (R50, R51). -/
def forceTracker (e : MapEntry) (t : Tracker) : Tracker :=
  if t.state = .idle then t
  else if e.param = 0 then { t with state := .hold, force := .hold e.id }
  else { t with state := .free, force := .nominal e.id, validRun := 0 }

/-- A TIMEBASE entry ends: the force it is named in becomes none, with the counts of R52. -/
def unforceTracker (e : MapEntry) (t : Tracker) : Tracker :=
  match t.force with
  | .hold id => if id = e.id then { t with force := .none, holdCount := 0 } else t
  | .nominal id => if id = e.id then { t with force := .none, validRun := 0 } else t
  | .none => t

/-- Changes a side's tracker. -/
def withTracker (d : Side) (f : Tracker → Tracker) (s : State) : State :=
  { s with trackers := s.trackers.modify d f }

/-- Changes a side's walker. -/
def withSideWalker (d : Side) (f : Walker → Walker) (s : State) : State :=
  { s with map := { s.map with sideWalker := s.map.sideWalker.modify d f } }

/-- The cue of a NOTE edge, with the number of the frame being produced (R124). -/
def cueOf (d : Side) (e : MapEntry) (isEnd : Bool) (s : State) : Cue :=
  ⟨e.id, e.param.toNat, isEnd, d, (s.resamplers.get d).frameNumber⟩

/-- The walker of a side activates an entry: it joins the active sets of its lanes on the side, a TIMEBASE entry
forces the tracker, and a NOTE entry makes a cue unless a seek activates it (R116, R119). -/
def activateEntry (d : Side) (seek : Bool) (s : State) (e : MapEntry) : State :=
  let t := withSideWalker d (fun w => { w with active := addActive w.active (lanesOnSide d e) e.id }) s
  match e.cls with
  | .timebase => withTracker d (forceTracker e) t
  | .note => if seek then t else appendCue (cueOf d e false t) t
  | _ => t

/-- The walker of a side ends an entry (R116, R52, R124). -/
def endEntry (d : Side) (s : State) (e : MapEntry) : State :=
  let t := withSideWalker d (fun w => { w with active := dropActive w.active e.id }) s
  match e.cls with
  | .timebase => withTracker d (unforceTracker e) t
  | .note => appendCue (cueOf d e true t) t
  | _ => t

/-- The walker of a side takes one raw position: ends in map order, then activations in map order (R118). -/
def walkPosition (d : Side) (x : Nat) (s : State) : State :=
  let ending := s.map.entries.filter fun e => e.stop == x && isActive (s.map.sideWalker.get d).active e.id
  let starting := s.map.entries.filter fun e => consideredBySide d e && e.start == x
  let t := starting.foldl (activateEntry d false) (ending.foldl (endEntry d) s)
  withSideWalker d (fun w => { w with cursor := x, next := nextConsidered t.map.entries (consideredBySide d) x }) t

/-- The walker of a side takes the `count` positions that follow a position, rising (R118). -/
def walkFrom (d : Side) : Nat → Nat → State → State
  | _, 0, s => s
  | x, count + 1, s => walkFrom d (x + 1) count (walkPosition d (x + 1) s)

/-- The walker of a side moves to a frame's output cursor (R118). -/
def walkTo (d : Side) (x : Nat) (s : State) : State :=
  let w := s.map.sideWalker.get d
  if w.running then walkFrom d w.cursor (x - w.cursor) s else s

/-- The walker of a side is sought to the pass start position (R119). -/
def seekSide (d : Side) (p : Nat) (s : State) : State :=
  let t := withSideWalker d (fun w =>
    { w with
      cursor := p
      running := true
      active := Quad.fill []
      next := nextConsidered s.map.entries (consideredBySide d) p }) s
  (s.map.entries.filter fun e => consideredBySide d e && decide (e.start ≤ p) && decide (p < e.stop)).foldl
    (activateEntry d true) t

/-! ### The intake walker (R117, R119) -/

/-- Activates an entry on the intake walker. -/
def activateIntake (w : Walker) (e : MapEntry) : Walker :=
  { w with active := addActive w.active (lanesOfEntry e) e.id }

/-- Ends an entry on the intake walker. -/
def endIntake (w : Walker) (e : MapEntry) : Walker :=
  { w with active := dropActive w.active e.id }

/-- The intake walker moves to a position: ends, then activations. A move to where it stands does nothing. -/
def intakeWalk (es : List MapEntry) (x : Nat) (w : Walker) : Walker :=
  if !w.running || w.cursor == x then w
  else
    let ending := es.filter fun e => e.stop == x && isActive w.active e.id
    let starting := es.filter fun e => consideredByIntake e && e.start == x
    let v := starting.foldl activateIntake (ending.foldl endIntake w)
    { v with cursor := x, next := nextConsidered es consideredByIntake x }

/-- The intake walker is sought to the pass start position. -/
def intakeSeek (es : List MapEntry) (p : Nat) (w : Walker) : Walker :=
  let v : Walker :=
    { w with
      cursor := p
      running := true
      active := Quad.fill []
      next := nextConsidered es consideredByIntake p }
  (es.filter fun e => consideredByIntake e && decide (e.start ≤ p) && decide (p < e.stop)).foldl activateIntake v

/-- Changes the intake walker. -/
def withIntakeWalker (f : Walker → Walker) (s : State) : State :=
  { s with map := { s.map with intakeWalker := f s.map.intakeWalker } }

/-- A walker stops at a pass end: its active sets are emptied, its cursor and next entry kept (R120). -/
def stopWalker (w : Walker) : Walker :=
  if w.running then { w with running := false, active := Quad.fill [] } else w

/-- Every running walker stops (R120). -/
def stopWalkers (s : State) : State :=
  { s with
    map := { s.map with
      intakeWalker := stopWalker s.map.intakeWalker
      sideWalker := ⟨stopWalker s.map.sideWalker.a, stopWalker s.map.sideWalker.b⟩ } }

/-! ### Edits (R121) -/

/-- A walker's next entry after an edit: recomputed while it runs, kept while it does not (R120, R121, log 16). -/
def refreshNext (es : List MapEntry) (considered : MapEntry → Bool) (w : Walker) : Walker :=
  if w.running then { w with next := nextConsidered es considered w.cursor } else w

/-- Replaces the entries after an edit. -/
def setEntries (es : List MapEntry) (s : State) : State :=
  { s with
    map :=
      { entries := es
        intakeWalker := refreshNext es consideredByIntake s.map.intakeWalker
        sideWalker :=
          ⟨refreshNext es (consideredBySide .A) s.map.sideWalker.a,
           refreshNext es (consideredBySide .B) s.map.sideWalker.b⟩ } }

/-- The active lanes of an entry: those on which its id stands in an active set of a running walker, the intake
walker for THRESHOLD and a side walker for an output class (R114). -/
def activeLanes (s : State) (e : MapEntry) : List Lane :=
  allLanes.filter fun l =>
    let w := if e.cls = .threshold then s.map.intakeWalker else s.map.sideWalker.get (sideOf l)
    w.running && (w.active.get l).contains e.id

/-! ### Values in force (R122, R123) -/

/-- The entry of a class active on a lane in an active set. -/
def activeOf (es : List MapEntry) (cls : MapClass) (ids : List Nat) : Option MapEntry :=
  es.find? fun e => e.cls == cls && ids.contains e.id

/-- The entry of an output class active on a lane at its side's output cursor. -/
def outputEntry (s : State) (cls : MapClass) (l : Lane) : Option MapEntry :=
  activeOf s.map.entries cls ((s.map.sideWalker.get (sideOf l)).active.get l)

/-- The carrier threshold in force on a lane, T_eff (R82). -/
def thresholdInForce (s : State) (l : Lane) : Nat :=
  match activeOf s.map.entries .threshold (s.map.intakeWalker.active.get l) with
  | some e => e.param.toNat
  | none => s.settings.threshold.get (sideOf l)

/-- The repair mode in force on a lane (R94). -/
def repairInForce (s : State) (l : Lane) : RepairMode :=
  match outputEntry s .repair l with
  | some e => (repairModeOfCode e.param.toNat).getD .pass
  | none => s.settings.repairMode.get (sideOf l)

/-- The gain in force on a lane (R123). -/
def gainInForce (s : State) (l : Lane) : Nat :=
  match outputEntry s .gain l with
  | some e => e.param.toNat
  | none => s.settings.gain.get (sideOf l)

/-- The EQ set in force on a lane (R123). -/
def eqSetInForce (s : State) (l : Lane) : Fin 4 :=
  match outputEntry s .eqset l with
  | some e => (slotOfCode e.param.toNat).getD 0
  | none => s.settings.eqSet.get (sideOf l)

/-- The parameter of the SKEW entry active for a side (R58, R122). -/
def skewEntry (s : State) (d : Side) : Option Int :=
  (outputEntry s .skew (firstLane d)).map (·.param.toInt)

end Sys2Proof.Machine
end

