-- ==== Sys2Proof/Machine/CarrierTracker.lean ====
section
/-! DEFINITION. The carrier tracker of a side: stamp rings, the measurement, the state rules and the skew
(Chapter 3). -/

namespace Sys2Proof.Machine

/-! ### Stamp rings and the measurement -/

/-- K, the number of raw parcels a measurement spans: W/16 (R34). -/
def spanOf (window : Nat) : Nat := window / 16

/-- Pushes an entry; the ring keeps the newest K+1 (R36). -/
def pushStamp (k : Nat) (ring : List StampEntry) (e : StampEntry) : List StampEntry :=
  (ring ++ [e]).drop (ring.length + 1 - (k + 1))

/-- The clean bit of the parcel that ends at a position: all 16 frames carrier-valid, none with its gap bit
set (R35). -/
def parcelClean (s : State) (l : Lane) (last : Nat) : Bool :=
  (List.range 16).all fun i => let e := historyAt s l (last - i); e.valid && !e.gap

/-- A lane's measurement at a boundary: its count and its newest stamp, and whether its window is clean (R37). -/
structure LaneCount where
  count : Nat
  clean : Bool
  newest : BitVec 24
  deriving DecidableEq, Repr

/-- The measurement a ring holds, when it has K+1 entries (R37). -/
def laneCount (k : Nat) (ring : List StampEntry) : Option LaneCount :=
  if ring.length = k + 1 then
    match ring.head?, ring.getLast? with
    | some oldest, some newest =>
      some ⟨(newest.stamp - oldest.stamp).toNat, ring.tail.all (·.clean), newest.stamp⟩
    | _, _ => none
  else none

/-- A lane qualifies when it is in use, has a measurement, and its window is clean (R38): its count. -/
def qualifies (used : Bool) (m : Option LaneCount) : Option Nat :=
  match m with
  | some c => if used && c.clean then some c.count else none
  | none => none

/-- The side's count D by its reference lane (R38). -/
def sideCount (r : RefLane) (first second : Option Nat) : Option Nat :=
  match r with
  | .first => first
  | .second => second
  | .auto =>
    match first, second with
    | some a, some b => some ((a + b) / 2)
    | some a, none => some a
    | none, some b => some b
    | none, none => none

/-- The nominal count, rounded half up (R39). -/
def nominalCount (biasHz window : Nat) : Nat := (biasHz * 256 * window + 48000) / 96000

/-- The target for a count (R39). -/
def targetFor (biasHz window d : Nat) : Nat := (nominalCount biasHz window * 16777216 + d / 2) / d

/-- The lower limit of a speed range (R40). -/
def rangeLow (r : Nat) : Int := (16777216 * (100 - (r : Int))) / 100

/-- The upper limit of a speed range (R40). -/
def rangeHigh (r : Nat) : Int := (16777216 * (100 + (r : Int))) / 100

/-- The target of a valid measurement: D exists, is not 0, and its target lies within the limits (R40). -/
def validTarget (biasHz window r : Nat) (d : Option Nat) : Option Int :=
  match d with
  | none => none
  | some 0 => none
  | some (n + 1) =>
    let t : Int := targetFor biasHz window (n + 1)
    if rangeLow r ≤ t ∧ t ≤ rangeHigh r then some t else none

/-! ### The state rules -/

/-- The applied step slews toward a goal by at most the slew limit (R41). -/
def slewToward (slew : Nat) (goal step : Int) : Int := step + clamp (-(slew : Int)) slew (goal - step)

/-- What an update of a tracker reports beyond its own state: a lock acquisition, or a time-base loss (R49). -/
structure Judged where
  next : Tracker
  locked : Bool
  lost : Bool
  deriving DecidableEq, Repr

/-- ACQUIRE, and FREE as in ACQUIRE (R44, R47). -/
def judgeSeeking (slew lockCount : Nat) (target : Option Int) (t : Tracker) : Judged :=
  let u := { t with appliedStep := slewToward slew unity t.appliedStep }
  match target with
  | some _ =>
    if lockCount ≤ t.validRun + 1 then ⟨{ u with state := .locked, validRun := 0 }, true, false⟩
    else ⟨{ u with validRun := t.validRun + 1 }, false, false⟩
  | none => ⟨{ u with validRun := 0 }, false, false⟩

/-- The rule of the state a tracker holds when the update begins (R44 to R47), or of its force (R50, R51). -/
def judgeState (slew lockCount holdLimit : Nat) (target : Option Int) (t : Tracker) : Judged :=
  match t.force with
  | .hold _ => ⟨t, false, false⟩
  | .nominal _ => ⟨{ t with appliedStep := slewToward slew unity t.appliedStep }, false, false⟩
  | .none =>
    match t.state with
    | .idle => ⟨t, false, false⟩
    | .acquire => judgeSeeking slew lockCount target t
    | .free => judgeSeeking slew lockCount target t
    | .locked =>
      match target with
      | some g => ⟨{ t with appliedStep := slewToward slew g t.appliedStep }, false, false⟩
      | none => ⟨{ t with state := .hold, holdCount := 0 }, false, false⟩
    | .hold =>
      match target with
      | some g => ⟨{ t with state := .locked, appliedStep := slewToward slew g t.appliedStep }, false, false⟩
      | none =>
        if holdLimit ≤ t.holdCount + 1 then
          ⟨{ t with state := .free, holdCount := t.holdCount + 1, validRun := 0 }, false, true⟩
        else ⟨{ t with holdCount := t.holdCount + 1 }, false, false⟩

/-! ### The skew -/

/-- The phase of the second lane's newest stamp against the first's, -128 to 127, negated on a REVERSE side
(R56). -/
def phaseOf (dir : Direction) (first second : BitVec 24) : Int :=
  let raw : Int := (((second.toNat : Int) - first.toNat) % 256)
  let phi := if 128 ≤ raw then raw - 256 else raw
  match dir with
  | .forward => phi
  | .reverse => -phi

/-- The skew average moved one sixteenth of the way toward 16 times the phase (R56). -/
def averageSkew (phi e : Int) : Int := e + (16 * phi - e) / 16

/-- The skew the average and the whole cycles call for, eight frames either way at most (R57). -/
def computedSkew (biasHz : Nat) (cycles e : Int) : Int :=
  let u := cycles * 4096 + e
  let magnitude : Int := ((u.natAbs * 393216000 + biasHz / 2) / biasHz : Nat)
  clamp (-134217728) 134217728 (if u < 0 then -magnitude else magnitude)

/-- The skew in force set at a boundary (R58). -/
def skewAt (entry : Option Int) (mode : SkewMode) (biasHz : Nat) (cycles e : Int) : Int :=
  match entry with
  | some p => p
  | none =>
    match mode with
    | .auto => computedSkew biasHz cycles e
    | .off => 0

/-! ### The update of a side at a boundary (R42) -/

/-- The event that reports a side's loss of its time base (R46). -/
def lostEvent : Side → EventKind
  | .A => .tbLostA
  | .B => .tbLostB

/-- The rings of a side after the push of R35: a lane not in use pushes nothing. -/
def pushRings (d : Side) (s : State) (t : Tracker) : Tracker :=
  let k := spanOf s.intake.applied.window
  let last := s.intake.position
  let entry := fun l => (⟨(historyAt s l last).stamp, parcelClean s l last⟩ : StampEntry)
  { t with
    ringFirst :=
      if inUse s (firstLane d) then pushStamp k t.ringFirst (entry (firstLane d)) else t.ringFirst
    ringSecond :=
      if inUse s (secondLane d) then pushStamp k t.ringSecond (entry (secondLane d)) else t.ringSecond }

/-- The skew average after a valid measurement with both lanes in use and both windows clean (R56). -/
def averageAfter (d : Side) (s : State) (first second : Option LaneCount) (valid : Bool) (e : Int) : Int :=
  match first, second with
  | some a, some b =>
    if valid && inUse s (firstLane d) && inUse s (secondLane d) && a.clean && b.clean then
      averageSkew (phaseOf (s.intake.applied.direction.get d) a.newest b.newest) e
    else e
  | _, _ => e

/-- A side's tracker at a boundary, before the skew: push, measurement, state, counts and applied step. -/
def trackerJudged (d : Side) (s : State) (t : Tracker) : Judged :=
  let k := spanOf s.intake.applied.window
  let u := pushRings d s t
  let first := laneCount k u.ringFirst
  let second := laneCount k u.ringSecond
  let target := validTarget (s.settings.biasHz.get d) s.intake.applied.window s.settings.speedRange
    (sideCount (s.settings.reference.get d) (qualifies (inUse s (firstLane d)) first)
      (qualifies (inUse s (secondLane d)) second))
  judgeState s.settings.slew s.settings.lockCount s.settings.holdLimit target
    { u with
      targetStep := target.getD u.targetStep
      skewAverage := averageAfter d s first second target.isSome u.skewAverage }

/-- The counters of a side's tracker after an update (R49). -/
def countUpdate (d : Side) (j : Judged) (s : State) : State :=
  withCounters (fun c =>
    { c with
      lockAcquisitions := if j.locked then c.lockAcquisitions.modify d (countUp · 1) else c.lockAcquisitions
      timeBaseLosses := if j.lost then c.timeBaseLosses.modify d (countUp · 1) else c.timeBaseLosses
      heldParcels := if j.next.state = .hold then c.heldParcels.modify d (countUp · 1) else c.heldParcels }) s

/-- The trim loop takes the trim side's boundary (R188): the tracker as its update left it. At 256 the interval
ends and the duty may move by one (R189). -/
def trimCount (d : Side) (s : State) : State :=
  if s.settings.trimEnable ∧ s.settings.trimSide = d ∧ sideActive s d then
    let t := s.trackers.get d
    let n := s.lines.trimCount + 1
    let sum := s.lines.trimSum + t.appliedStep
    let locked := s.lines.allLocked && t.state == .locked
    if 256 ≤ n then
      let m := sum / 256
      let band : Int := s.settings.trimDeadband
      let duty :=
        if locked then
          if unity + band < m then min (s.lines.duty + 1) 255
          else if m < unity - band then s.lines.duty - 1
          else s.lines.duty
        else s.lines.duty
      { s with lines := { s.lines with trimCount := 0, trimSum := 0, allLocked := true, duty := duty } }
    else { s with lines := { s.lines with trimCount := n, trimSum := sum, allLocked := locked } }
  else s

/-- The tracker of a side does its work at a boundary (R42): nothing in IDLE; else its update, the skew in force
(R58), its counters and its loss event. Then the trim loop looks at it (R188, log 28). -/
def updateTracker (d : Side) (s : State) : State :=
  if sideActive s d then
    let j := trackerJudged d s (s.trackers.get d)
    let t := { j.next with
      skewInForce := skewAt (skewEntry s d) (s.settings.skewMode.get d) (s.settings.biasHz.get d)
        (s.settings.skewCycles.get d) j.next.skewAverage }
    let u := countUpdate d j { s with trackers := s.trackers.set d t }
    trimCount d (if j.lost then raise (lostEvent d) u else u)
  else s

/-! ### Pass start, pass end, range write -/

/-- The tracker of a side at pass start (R43): a side not enabled keeps its values but for its rings (R36). -/
def startTracker (enabled : Bool) (t : Tracker) : Tracker :=
  if enabled then
    { state := .acquire
      ringFirst := []
      ringSecond := []
      appliedStep := unity
      targetStep := unity
      validRun := 0
      holdCount := 0
      skewAverage := 0
      skewInForce := 0
      force := .none }
  else { t with ringFirst := [], ringSecond := [] }

/-- The tracker of a side at a pass end (R48). -/
def endTracker (t : Tracker) : Tracker :=
  if t.state = .idle then t
  else { t with state := .idle, appliedStep := unity, holdCount := 0, validRun := 0, force := .none }

/-- The applied step clamped into the limits of the speed range just written; IDLE is not changed (R54). -/
def clampStep (r : Nat) (t : Tracker) : Tracker :=
  if t.state = .idle then t else { t with appliedStep := clamp (rangeLow r) (rangeHigh r) t.appliedStep }

end Sys2Proof.Machine
end

