-- ==== Sys2Proof/Machine/DropoutDetector.lean ====
section
/-! DEFINITION. The dropout detector of a lane: low frames, runs, marks and damage records (5.1 to 5.5). -/

namespace Sys2Proof.Machine

/-- Whether a frame is low: carrier-valid clear, or its level below the effective threshold (R82). -/
def isLow (threshold : Nat) (e : HistEntry) : Bool := !e.valid || decide (e.level < threshold)

/-- N_in_eff: the lesser of N_in and half the applied track window less one (R83). -/
def nInEff (nIn window : Nat) : Nat := min nIn (window / 2 - 1)

/-- What a detector does with one frame: its state after, the frames it marks (a first position and a count),
and the end of the run it closes NORMAL, if any. -/
structure Examined where
  next : Detector
  markFrom : Nat
  markCount : Nat
  closed : Option Nat
  deriving DecidableEq, Repr

/-- The frame joins the open run: its level and its gap bit count (R85, R89). -/
def joinRun (d : Detector) (e : HistEntry) : Detector :=
  { d with lowest := min d.lowest e.level, gap := d.gap || e.gap }

/-- One frame examined (R84 to R87). `inEff` and `outCount` are N_in_eff and N_out; a
closed run leaves a count of 0 (log 25). -/
def examineFrame (inEff outCount : Nat) (low : Bool) (pos : Nat) (e : HistEntry) (d : Detector) : Examined :=
  match d.state, low with
  | .clear, false => ⟨d, pos, 0, none⟩
  | .clear, true =>
    let run : Detector := ⟨.suspect, 1, pos, e.level, e.gap⟩
    if inEff ≤ 1 then ⟨{ run with state := .dropout }, pos, 1, none⟩ else ⟨run, pos, 0, none⟩
  | .suspect, false => ⟨{ d with state := .clear, count := 0 }, pos, 0, none⟩
  | .suspect, true =>
    let run := { joinRun d e with count := d.count + 1 }
    if inEff ≤ run.count then ⟨{ run with state := .dropout }, d.start, pos + 1 - d.start, none⟩
    else ⟨run, pos, 0, none⟩
  | .dropout, true => ⟨joinRun d e, pos, 1, none⟩
  | .dropout, false =>
    if outCount ≤ 1 then ⟨{ d with state := .clear, count := 0 }, pos, 0, some (pos - 1)⟩
    else ⟨{ joinRun d e with state := .recovering, count := 1 }, pos, 1, none⟩
  | .recovering, true => ⟨{ joinRun d e with state := .dropout }, pos, 1, none⟩
  | .recovering, false =>
    if outCount ≤ d.count + 1 then ⟨{ d with state := .clear, count := 0 }, pos, 0, some (pos - 1)⟩
    else ⟨{ joinRun d e with count := d.count + 1 }, pos, 1, none⟩

/-- A run closes: one damage record, offered to the log, and one more dropout closed on the lane (R90). -/
def closeRun (l : Lane) (d : Detector) (stop : Nat) (cut : Bool) (s : State) : State :=
  appendDamage ⟨l, d.start, stop, d.lowest, d.gap, cut, s.intake.passNumber⟩
    (withCounters (fun c => { c with dropoutsClosed := c.dropoutsClosed.modify l (countUp · 1) }) s)

/-- The detector of a lane examines the frame just written at a position (R81, R88, R90). -/
def presentFrame (l : Lane) (pos : Nat) (s : State) : State :=
  let d := s.detectors.get l
  let e := historyAt s l pos
  let x := examineFrame (nInEff s.settings.nIn s.intake.applied.window) s.settings.nOut
    (isLow (thresholdInForce s l) e) pos e d
  let t := markRun l x.markFrom x.markCount { s with detectors := s.detectors.set l x.next }
  match x.closed with
  | some stop => closeRun l d stop false t
  | none => t

/-- A pass end at one lane's detector: a run in DROPOUT or RECOVERING closes CUT at the intake position, a run
in SUSPECT is discarded, and the detector is CLEAR (R91). -/
def endDetector (s : State) (l : Lane) : State :=
  let d := s.detectors.get l
  let t := { s with detectors := s.detectors.set l { d with state := .clear, count := 0 } }
  match d.state with
  | .clear => t
  | .suspect => t
  | .dropout => closeRun l d s.intake.position true t
  | .recovering => closeRun l d s.intake.position true t

/-- A detector at pass start: CLEAR with no open run (R22, R80, log 27). -/
def startDetector (d : Detector) : Detector := { d with state := .clear, count := 0 }

end Sys2Proof.Machine
end

