-- ==== Sys2Proof/Machine/Install.lean ====
section
/-! DEFINITION. Installation of a pending table or set of tables (R77, R131, R175). -/

namespace Sys2Proof.Machine

/-- The tables an installation replaces (R175): the kernel from the staging area, one EQ set from its first 32
words, or a slot's kernel and four EQ sets as the slot stands. -/
def installTables (i : Install) (s : State) : State :=
  match i with
  | .none => s
  | .load .kernel => { s with kernel := s.stager.staging }
  | .load (.eq n) => { s with eqSets := s.eqSets.set n (s.stager.staging.take 32) }
  | .recall n =>
    match (s.store.slots.get n).profile with
    | some p => { s with kernel := p.kernel, eqSets := p.eqSets }
    | none => s

/-- An installation pending is made, and none is pending after it. -/
def installPending (s : State) : State :=
  let t := installTables s.stager.install s
  { t with stager := { t.stager with install := .none } }

/-- An installation is marked: made at once when no pass runs, else left pending (R77). -/
def markInstall (i : Install) (s : State) : State :=
  let t := { s with stager := { s.stager with install := i } }
  if s.intake.running then t else installPending t

end Sys2Proof.Machine
end

