-- ==== Sys2Proof/Machine/RepairStage.lean ====
section
/-! DEFINITION. The repair stage of a lane (5.7 to 5.9). -/

namespace Sys2Proof.Machine

/-- What the resampler hands on for a lane in use (R74). -/
structure LaneInput where
  sample : Int
  clip : Bool
  damaged : Bool
  gap : Bool
  deriving DecidableEq, Repr

/-- What the repair stage hands to the equalizer (R102). -/
structure Repaired where
  sample : Int
  flags : FlagSet
  clip : Bool
  deriving DecidableEq, Repr

/-- The decay of the hold gain: g - floor(g/64) (R96). -/
def decayGain (g : Nat) : Nat := g - g / 64

/-- A lane's repair state after a sample: an undamaged one becomes the last good sample (R95), a damaged one
advances the hold gain (R96). -/
def repairNext (x : LaneInput) (r : Repair) : Repair :=
  if x.damaged then
    if r.inRun then { r with holdGain := decayGain r.holdGain } else { r with holdGain := 32767, inRun := true }
  else { r with lastGood := some x.sample, inRun := false }

/-- The flags every sample takes from the frame: GAP and TB_UNLOCKED (R101). -/
def frameFlags (x : LaneInput) (tracker : TrackerState) : FlagSet :=
  { FlagSet.none with gap := x.gap, tbUnlocked := tracker != .locked }

/-- A damaged sample goes on unchanged, flagged DAMAGED (R97). -/
def passDamaged (x : LaneInput) (f : FlagSet) : Repaired := ⟨x.sample, { f with damaged := true }, x.clip⟩

/-- The HOLD method's replacement: floor(last good × g / 32,768), last good taken as 0 if none (R99). -/
def heldSample (r : Repair) : Int := (r.lastGood.getD 0 * (r.holdGain : Int)) / 32768

/-- The delivered sample of a lane (R95 to R101). `r` is the repair state with g as R96 has just left it; `twinOn`
is the twin setting of the side; `other` is the other lane's input when that lane is in use. -/
def repairSample (mode : RepairMode) (twinOn : Bool) (tracker : TrackerState) (r : Repair) (x : LaneInput)
    (other : Option LaneInput) : Repaired :=
  let f := frameFlags x tracker
  if x.damaged then
    match mode with
    | .pass => passDamaged x f
    | .mute => ⟨0, { f with repaired := true, method := .mute }, false⟩
    | .hold => ⟨heldSample r, { f with repaired := true, method := .hold }, false⟩
    | .twin =>
      match other with
      | some o =>
        if twinOn && !o.damaged then
          ⟨o.sample, { f with repaired := true, method := .twin, gap := f.gap || o.gap }, o.clip⟩
        else passDamaged x { f with twinUnavailable := true }
      | none => passDamaged x { f with twinUnavailable := true }
  else ⟨x.sample, f, x.clip⟩

/-- The repair counters of a sample handed on (R102). -/
def countRepair (l : Lane) (f : FlagSet) (s : State) : State :=
  withCounters (fun c =>
    { c with
      repairedSamples := if f.repaired then c.repairedSamples.modify l (countUp · 1) else c.repairedSamples
      damagedUnrepaired :=
        if f.damaged then c.damagedUnrepaired.modify l (countUp · 1) else c.damagedUnrepaired }) s

/-- A lane's repair stage at pass start (R93). -/
def startRepair : Repair := ⟨none, 32767, false⟩

end Sys2Proof.Machine
end

