-- ==== Sys2Proof/Machine/Equalizer.lean ====
section
/-! DEFINITION. The equalizer and the gain stage of a lane, the clean assembler and the clean queue of a side
(Chapter 7). -/

namespace Sys2Proof.Machine

/-- The 63 taps of a set of 32 coefficients, symmetric about h[31] (R129). -/
def tapsOf (h : List Int) : List Int := h ++ (h.take 31).reverse

/-- The exact sum of taps times samples (R129). -/
def tapSum (h line : List Int) : Int := ((tapsOf h).zipWith (· * ·) line).sum

/-- The equalizer's computed sample before saturation (R129). -/
def filterRaw (h line : List Int) : Int := (tapSum h line + 524288) / 1048576

/-- The gain stage's value before saturation (R133). -/
def gainRaw (y : Int) (g : Nat) : Int := (y * (g : Int) + 2048) / 4096

/-- The sample and record of a lane's delays after one intake (R128). -/
def shiftLane (sample : Int) (r : Option LaneRecord) (q : EqLane) : EqLane :=
  ⟨(sample :: q.line).take 63, (r :: q.records).take 63⟩

/-- The record of the centre sample: 31 places from the newest (R130). -/
def centreRecord (q : EqLane) : Option LaneRecord := (q.records[31]?).join

/-- A lane's sample as it leaves the gain stage, with its flag set and whether it is clipped (R129 to R134). -/
def laneOutput (eqSets : Quad (List Int)) (tail : Bool) (q : EqLane) (r : LaneRecord) : SampleOut :=
  let y := filterRaw (eqSets.get r.eqSet) q.line
  let z := gainRaw (saturate y) r.gain
  let clipped := r.clip || saturate y != y || saturate z != z
  ⟨saturate z, { r.flags with clipped := clipped, tail := tail }⟩

/-- The sample of a lane in an output frame: of a lane in use its own, of another 0 flagged LANE_OFF (R135). An
empty record leaves no delay (R136); were one to, the lane would be delivered as not in use (log 18). -/
def laneSlot (s : State) (tail : Bool) (l : Lane) : SampleOut :=
  if inUse s l then
    match centreRecord (s.eqLanes.get l) with
    | some r => laneOutput s.eqSets tail (s.eqLanes.get l) r
    | none => ⟨0, FlagSet.laneOffOnly⟩
  else ⟨0, FlagSet.laneOffOnly⟩

/-- A clipped sample handed to the assembler is counted and raises OUTPUT_CLIP (R134). -/
def countClip (l : Lane) (f : FlagSet) (s : State) : State :=
  if f.clipped then
    raise .outputClip
      (withCounters (fun c => { c with clippedSamples := c.clippedSamples.modify l (countUp · 1) }) s)
  else s

/-- The CLEAN parcel of the frames a side's partial parcel holds (R139). -/
def cleanParcelOf (d : Side) (first : CleanFrame) (frames : List CleanFrame) (s : State) : CleanParcel where
  side := d
  pass := s.intake.passNumber
  firstNumber := first.record.number
  rawSource := first.record.rawSource
  reversed := s.intake.applied.direction.get d == .reverse
  tracker := (s.trackers.get d).state
  frames := frames

/-- A completed CLEAN parcel joins its side's clean queue, or is discarded and counted when Port D is DOWN or the
queue holds 4 (R140). -/
def queueClean (d : Side) (p : CleanParcel) (s : State) : State :=
  if s.link.link.d = .up ∧ (s.cleanQueues.get d).length < 4 then
    { s with cleanQueues := s.cleanQueues.modify d (· ++ [p]) }
  else withCounters (fun c => { c with cleanDiscarded := c.cleanDiscarded.modify d (countUp · 1) }) s

/-- The partial parcel of a side is completed, if it holds any frame (R139). -/
def completePartial (d : Side) (s : State) : State :=
  match s.partials.get d with
  | [] => s
  | f :: rest =>
    queueClean d (cleanParcelOf d f (f :: rest) s) { s with partials := s.partials.set d [] }

/-- A frame joins the partial parcel, which is completed at 16 frames (R138, R139). -/
def assemble (d : Side) (f : CleanFrame) (s : State) : State :=
  let t := { s with partials := s.partials.modify d (· ++ [f]) }
  if 16 ≤ (t.partials.get d).length then completePartial d t else t

/-- The frame with the given record leaves the equalizer: its samples are computed, pass the gain stage, are
counted where clipped, and join the assembler (R128, R134, R138). -/
def putOut (d : Side) (r : FrameRecord) (s : State) : State :=
  let tail := (s.eqSides.get d).flushing
  let a := laneSlot s tail (firstLane d)
  let b := laneSlot s tail (secondLane d)
  assemble d ⟨a, b, r⟩ (countClip (secondLane d) b.flags (countClip (firstLane d) a.flags s))

/-- What the equalizer of a side takes in of one lane: nothing for a lane not in use (R128). -/
abbrev LaneIntake := Option (Int × Option LaneRecord)

/-- A lane's delays take in a sample and a record. -/
def takeLane (l : Lane) (x : LaneIntake) (s : State) : State :=
  match x with
  | some (sample, r) => { s with eqLanes := s.eqLanes.modify l (shiftLane sample r) }
  | none => s

/-- One intake of a side's equalizer (R128): the delays move; below a fill count of 31 nothing is put out, else the
oldest frame record leaves and its frame is put out. -/
def eqIntake (d : Side) (a b : LaneIntake) (r : Option FrameRecord) (s : State) : State :=
  let t := takeLane (secondLane d) b (takeLane (firstLane d) a s)
  let q := t.eqSides.get d
  if q.fill < 31 then
    { t with eqSides := t.eqSides.set d { q with fill := q.fill + 1, frames := (r :: q.frames).take 31 } }
  else
    let u := { t with eqSides := t.eqSides.set d { q with frames := (r :: q.frames).take 31 } }
    match (q.frames[30]?).join with
    | some oldest => putOut d oldest u
    | none => u

/-- A zero input of the tail flush, for a lane in use (R136). -/
def flushInput (s : State) (l : Lane) : LaneIntake := if inUse s l then some (0, none) else none

/-- `n` empty intakes of the tail flush (R136). -/
def flushIntakes (d : Side) : Nat → State → State
  | 0, s => s
  | n + 1, s =>
    flushIntakes d n
      (eqIntake d (flushInput s (firstLane d)) (flushInput s (secondLane d)) none s)

/-- Sets a side's tail-flush state. -/
def setFlushing (d : Side) (b : Bool) (s : State) : State :=
  { s with eqSides := s.eqSides.modify d fun q => { q with flushing := b } }

/-- The tail flush: 31 empty intakes while the tail-flush state is flushing (R136). -/
def tailFlush (d : Side) (s : State) : State :=
  setFlushing d false (flushIntakes d 31 (setFlushing d true s))

end Sys2Proof.Machine
end

