-- ==== Sys2Proof/Machine/Production.lean ====
section
/-! DEFINITION. The resampler of a side: the production condition, one output frame, and the production of a
boundary (Chapter 4). -/

namespace Sys2Proof.Machine

/-- The integer part of a position in units of 2^-24 frame (4.1). -/
def integerPart (x : Int) : Int := x / 16777216

/-- The kernel phase of a position: its fraction divided by 16,384 (R70). -/
def phaseIndex (x : Int) : Nat := ((x % 16777216) / 16384).toNat

/-- The production condition (R62). -/
def canProduce (d : Side) (s : State) : Bool :=
  let r := s.resamplers.get d
  !r.exhausted &&
    decide (integerPart (r.readPos + max (s.trackers.get d).skewInForce 0) + 2 ≤ (s.intake.position : Int) - r.lag)

/-- The four source frames of a lane at a source position: i - 1 to i + 2 (R70). -/
def sourceWindow (s : State) (l : Lane) (x : Int) : List HistEntry :=
  let i := integerPart x
  [sourceFrame s l (i - 1), sourceFrame s l i, sourceFrame s l (i + 1), sourceFrame s l (i + 2)]

/-- The four coefficients of a phase in the kernel in use (R75). -/
def coefficients (kernel : List Int) (p : Nat) : List Int := (kernel.drop (4 * p)).take 4

/-- The interpolated value before saturation (R71). -/
def interpolate (coeffs samples : List Int) : Int := ((coeffs.zipWith (· * ·) samples).sum + 8192) / 16384

/-- What a lane in use hands to the repair stage at a source position (R71, R73, R74). -/
def laneInputAt (s : State) (l : Lane) (x : Int) : LaneInput :=
  let w := sourceWindow s l x
  let y := interpolate (coefficients s.kernel (phaseIndex x)) (w.map (·.sample))
  ⟨saturate y, saturate y != y, w.any (·.damaged), w.any (·.gap)⟩

/-- The source position of each lane: the second lane's is shifted by the skew in force (R72). -/
def sourcePosition (s : State) (l : Lane) : Int :=
  let d := sideOf l
  let r := (s.resamplers.get d).readPos
  if l = secondLane d then r + (s.trackers.get d).skewInForce else r

/-- The input of a lane for the frame being produced, if the lane is in use (R74). -/
def laneInput (s : State) (l : Lane) : Option LaneInput :=
  if inUse s l then some (laneInputAt s l (sourcePosition s l)) else none

/-- The repair stage of one lane takes its input and hands on to the equalizer (R94 to R102): the lane's intake,
and the state with the repair stage's own state and counters advanced. -/
def repairLane (l : Lane) (x other : Option LaneInput) (s : State) : LaneIntake × State :=
  match x with
  | none => (none, s)
  | some x =>
    let d := sideOf l
    let r := repairNext x (s.repairs.get l)
    let y := repairSample (repairInForce s l) (s.settings.twin.get d) (s.trackers.get d).state r x other
    (some (y.sample, some ⟨y.flags, y.clip, eqSetInForce s l, gainInForce s l⟩),
     countRepair l y.flags { s with repairs := s.repairs.set l r })

/-- A frame is handed through repair, equalizer, gain and assembler (R63 step 4). -/
def handOnFrame (d : Side) (x y : Option LaneInput) (s : State) : State :=
  let r := s.resamplers.get d
  let (a, t) := repairLane (firstLane d) x y s
  let (b, u) := repairLane (secondLane d) y x t
  eqIntake d a b (some ⟨r.frameNumber, r.cursor⟩)
    (withCounters (fun c => { c with outputFrames := c.outputFrames.modify d (countUp · 1) }) u)

/-- The resampler after a frame: the next number, or the exhausted state after the last one (R65), and the read
position advanced by the applied step (R63 steps 5 and 6). -/
def advanceResampler (step : Int) (r : Resampler) : Resampler :=
  if maxPosition ≤ r.frameNumber then { r with exhausted := true, readPos := r.readPos + step }
  else { r with frameNumber := r.frameNumber + 1, readPos := r.readPos + step }

/-- Changes a side's resampler. -/
def withResampler (d : Side) (f : Resampler → Resampler) (s : State) : State :=
  { s with resamplers := s.resamplers.modify d f }

/-- One output frame, in the order of R63. -/
def produceFrame (d : Side) (s : State) : State :=
  let x := laneInput s (firstLane d)
  let y := laneInput s (secondLane d)
  let cursor := (integerPart (s.resamplers.get d).readPos).toNat
  let t := walkTo d cursor (withResampler d (fun r => { r with cursor := cursor }) s)
  let u := handOnFrame d x y t
  withResampler d (advanceResampler (u.trackers.get d).appliedStep) u

/-- Frames one after another for as long as the condition holds, at most `n`. -/
def produceUpTo (d : Side) : Nat → State → State
  | 0, s => s
  | n + 1, s => if canProduce d s then produceUpTo d n (produceFrame d s) else s

/-- A count no production exceeds: each frame advances the read position by the applied step, and none is produced
once it reaches one frame below the limit of R62 (log 18). -/
def productionBound (d : Side) (s : State) : Nat :=
  let r := s.resamplers.get d
  let limit : Int := ((s.intake.position : Int) - r.lag - 1) * 16777216
  (limit - r.readPos).toNat / (s.trackers.get d).appliedStep.toNat + 1

/-- The production of a side at a boundary (R62): a side whose tracker is IDLE produces nothing. -/
def production (d : Side) (s : State) : State :=
  if sideActive s d then produceUpTo d (productionBound d s) s else s

/-- The resampler of a side at pass start (R61). -/
def startResampler (p window : Nat) : Resampler where
  readPos := ((p : Int) + 1) * 16777216
  frameNumber := 0
  cursor := p
  lag := window / 2
  exhausted := false

end Sys2Proof.Machine
end

