-- ==== Sys2Proof/Machine/Passes.lean ====
section
/-! DEFINITION. Raw intake: frames and parcels written, parcel boundaries, pass start, and the two pass ends
(Chapter 2). -/

namespace Sys2Proof.Machine

/-! ### Parcel boundaries (R29) -/

/-- One piece of a side's work at a boundary. -/
def doSideWork (s : State) (w : SideWork) : State :=
  match w with
  | .update d => updateTracker d s
  | .produce d => production d s

/-- The order of the sides' work at a boundary: open when both sides are at work (R67, R146), and then read from
the free values (log 10). -/
def boundaryWorks (s : State) : List SideWork :=
  if sideActive s .A && sideActive s .B then (Config.boundaryOrder s.freeCount).works
  else SideOrder.atApBtBp.works

/-- A parcel boundary: the trackers' updates and the productions, then a marked installation (R29, R77). -/
def boundary (s : State) : State :=
  let n := if sideActive s .A && sideActive s .B then s.freeCount + 1 else s.freeCount
  installPending ((boundaryWorks s).foldl doSideWork { s with freeCount := n })

/-! ### Frames and parcels (R26, R28) -/

/-- The history entry of an admitted frame on a lane (R28). -/
def entryOfSample (x : LaneSample) : HistEntry where
  sample := x.sample.toInt
  stamp := x.stamp
  level := x.level.toNat
  valid := x.valid
  damaged := false
  gap := false

/-- The history entries of an admitted frame, lane by lane. -/
def entriesOfFrame (f : RawFrame) : Quad HistEntry := Quad.tabulate fun l => entryOfSample (f.get l)

/-- The history entries of a frame filled for a gap: sample 0, stamp 0, level 0, carrier-valid clear, gap bit set,
damage mark clear (R26). -/
def filledFrame : Quad HistEntry := Quad.fill cleared

/-- One frame: its entries are written for the lanes in use, the intake position and the intake cursor move to it,
and it is presented to the detectors in lane order (R28, R81). -/
def writeFrame (pos : Nat) (f : Quad HistEntry) (s : State) : State :=
  let t := (lanesInUse s).foldl (fun t l => writeHistory l pos (f.get l) t) s
  let u := withIntakeWalker (intakeWalk t.map.entries pos) { t with intake := { t.intake with position := pos } }
  (lanesInUse u).foldl (fun v l => presentFrame l pos v) u

/-- Frames one after another at rising positions. -/
def writeFrames : Nat → List (Quad HistEntry) → State → State
  | _, [], s => s
  | pos, f :: rest, s => writeFrames (pos + 1) rest (writeFrame pos f s)

/-- A parcel's frames and the boundary after the last of them. -/
def writeParcel (first : Nat) (frames : List (Quad HistEntry)) (s : State) : State :=
  boundary (writeFrames first frames s)

/-- An admitted parcel is written: its frames, its boundary, 16 more frames admitted on every lane in use (R19), and
the expected position, none when it would exceed the highest raw position (R25). -/
def admitParcel (first : Nat) (frames : List RawFrame) (s : State) : State :=
  let used := lanesInUse s
  let t := withCounters (fun c =>
    { c with framesAdmitted := used.foldl (fun q l => q.modify l (countUp · 16)) c.framesAdmitted }) s
  let u := writeParcel first (frames.map entriesOfFrame) t
  { u with
    intake := { u.intake with expected := if maxPosition < first + 16 then none else some (first + 16) } }

/-- `n` missing parcels are filled, each with its own boundary (R26). -/
def fillParcels : Nat → Nat → State → State
  | _, 0, s => s
  | first, n + 1, s => fillParcels (first + 16) n (writeParcel first (List.replicate 16 filledFrame) s)

/-- A gap of `n` parcels from the expected position is filled; STREAM_GAP is then raised and counted once (R26, log 22). -/
def fillGap (first n : Nat) (s : State) : State :=
  withCounters (fun c => { c with streamGaps := countUp c.streamGaps 1 })
    (raise .streamGap (fillParcels first n s))

/-! ### Pass start (R21, R22) -/

/-- The blocks of one lane of an enabled side at pass start (R22): detector and repair stage of a lane in use, and the
lane's delays (log 17). -/
def startLane (s : State) (l : Lane) : State :=
  { s with
    detectors := if inUse s l then s.detectors.modify l startDetector else s.detectors
    repairs := if inUse s l then s.repairs.set l startRepair else s.repairs
    eqLanes := s.eqLanes.set l EqLane.reset }

/-- The blocks of an enabled side at pass start, from the pass start position (R22). -/
def startBlocks (p : Nat) (s : State) (d : Side) : State :=
  { s with
    trackers := s.trackers.modify d (startTracker true)
    resamplers := s.resamplers.set d (startResampler p s.intake.applied.window)
    eqSides := s.eqSides.set d EqSide.reset
    partials := s.partials.set d [] }

/-- One side at pass start: an enabled side starts and its walker is sought; another stays IDLE (R22, R36, R43). -/
def startSide (p : Nat) (s : State) (d : Side) : State :=
  if sideEnabled s d then seekSide d p (startBlocks p ((lanesOf d).foldl startLane s) d)
  else { s with trackers := s.trackers.modify d (startTracker false) }

/-- The trim loop's count, sum and indication start again (R188). -/
def restartTrim (s : State) : State :=
  { s with lines := { s.lines with trimCount := 0, trimSum := 0, allLocked := true } }

/-- Intake at pass start: pending settings applied, pass number incremented, histories cleared, pass start position
taken, pass state RUNNING (R21). -/
def beginPass (p : Nat) (s : State) : State :=
  let t := applyPending s
  { t with
    intake := { t.intake with passNumber := t.intake.passNumber + 1, passStart := p, running := true }
    history := Quad.fill [] }

/-- Pass start (R21), then the blocks of each side and the walkers (R22). -/
def passStart (p : Nat) (s : State) : State :=
  let t := beginPass p s
  restartTrim ([Side.A, Side.B].foldl (startSide p) (withIntakeWalker (intakeSeek t.map.entries p) t))

/-! ### Pass ends (R31, R33) -/

/-- The detectors of the lanes in use at a pass end, in lane order (R91). -/
def endDetectors (s : State) : State := (lanesInUse s).foldl endDetector s

/-- The audio of one side at a flushed end: tail flush, then the partial parcel completed (R136, R139). -/
def flushSide (s : State) (d : Side) : State :=
  if sideActive s d then completePartial d (tailFlush d s) else s

/-- The parcels of a clean queue that a discarding end keeps: one whose transmission has begun (R140). -/
def keptClean (d : Side) (s : State) : List CleanParcel :=
  match s.arbiter.sending with
  | some x => if x.source = .clean d then (s.cleanQueues.get d).take 1 else []
  | none => []

/-- The audio of one side at a discarding end: partial parcel and clean queue discarded, the queue's parcels counted
(R137, R140). -/
def discardSide (s : State) (d : Side) : State :=
  if sideActive s d then
    let kept := keptClean d s
    withCounters (fun c =>
      { c with
        cleanDiscarded := c.cleanDiscarded.modify d fun n => countUp n ((s.cleanQueues.get d).length - kept.length) })
      { s with partials := s.partials.set d [], cleanQueues := s.cleanQueues.set d kept }
  else s

/-- What both ends do last: trackers IDLE, walkers stopped, pass state IDLE, expected position none, and a marked
installation made once the end is complete (R48, R77, R120). -/
def closePass (s : State) : State :=
  let t := stopWalkers { s with trackers := ⟨endTracker s.trackers.a, endTracker s.trackers.b⟩ }
  installPending { t with intake := { t.intake with running := false, expected := none } }

/-- A flushed end (R31). -/
def flushedEnd (s : State) : State := closePass ([Side.A, Side.B].foldl flushSide (endDetectors s))

/-- A discarding end (R33). -/
def discardingEnd (s : State) : State := closePass ([Side.A, Side.B].foldl discardSide (endDetectors s))

/-- A running pass ends with a flushed end. -/
def endIfRunning (s : State) : State := if s.intake.running then flushedEnd s else s

/-! ### Admission (R19 to R27) -/

/-- One more break counted, and STREAM_BREAK raised (R20, R27). -/
def noteBreak (s : State) : State :=
  raise .streamBreak (withCounters (fun c => { c with streamBreaks := countUp c.streamBreaks 1 }) s)

/-- The number of missing parcels of a gap: 1 to 4 when the first position stands 16, 32, 48 or 64 above the expected
one (R25). -/
def gapParcels (expected first : Nat) : Option Nat :=
  if first = expected + 16 then some 1
  else if first = expected + 32 then some 2
  else if first = expected + 48 then some 3
  else if first = expected + 64 then some 4
  else none

/-- A pass starts at a parcel, which is then written as its first (R21). -/
def startWith (first : Nat) (frames : List RawFrame) (s : State) : State :=
  admitParcel first frames (passStart first s)

/-- A break: the running pass ends flushed, STREAM_BREAK, and a new pass starts at the parcel (R27). -/
def breakWith (first : Nat) (frames : List RawFrame) (s : State) : State :=
  startWith first frames (noteBreak (flushedEnd s))

/-- An admitted parcel of a running pass, by its first position (R25). -/
def continueWith (first : Nat) (frames : List RawFrame) (s : State) : State :=
  match s.intake.expected with
  | none => breakWith first frames s
  | some e =>
    if first = e then admitParcel first frames s
    else
      match gapParcels e first with
      | some n => admitParcel first frames (fillGap e n s)
      | none => breakWith first frames s

/-- Raw intake takes a good RAW parcel: discarded outside PLAY (R19), refused for its position (R20, log 15), or written. -/
def takeRaw (first : Nat) (frames : List RawFrame) (s : State) : State :=
  if s.intake.transport ≠ .play then withCounters (fun c => { c with rawDiscarded := countUp c.rawDiscarded 1 }) s
  else if 4294967280 < first then endIfRunning (noteBreak s)
  else if s.intake.running then continueWith first frames s
  else startWith first frames s

/-- Raw intake takes the transport state of a DECK parcel; leaving PLAY ends a running pass (R17, R18). A code that
is none of the four changes nothing. -/
def takeTransport (code : Nat) (s : State) : State :=
  match transportOfCode code with
  | none => s
  | some t =>
    let u := if s.intake.transport = .play ∧ t ≠ .play then endIfRunning s else s
    { u with intake := { u.intake with transport := t } }

/-! ### Engine reset (R33, R176) -/

/-- A load in progress is abandoned: load state IDLE, timer stopped (R172). -/
def abandonLoad (s : State) : State :=
  { s with stager := { s.stager with loading := false, timer := none } }

/-- The cue queue emptied, apart from a report in transmission (R149). -/
def emptyCues (s : State) : State :=
  { s with
    cues :=
      match s.arbiter.sending with
      | some x => if x.source = .cue then s.cues.take 1 else []
      | none => [] }

/-- A running pass ends with a discarding end; with none running an installation pending is made at once (R176). -/
def endForReset (s : State) : State := if s.intake.running then discardingEnd s else installPending s

/-- A load in progress is abandoned with its event (R176). -/
def abandonForReset (s : State) : State := if s.stager.loading then raise .loadAbandoned (abandonLoad s) else s

/-- The trim duty returns to 128 and the trim loop starts again (R176, R188). -/
def resetTrim (s : State) : State := restartTrim { s with lines := { s.lines with duty := 128 } }

/-- The engine reset, in the order of R176. -/
def engineReset (s : State) : State := applyPending (emptyCues (resetTrim (abandonForReset (endForReset s))))

end Sys2Proof.Machine
end

