-- ==== Sys2Proof/Machine/Writes.lean ====
section
/-! DEFINITION. The effect of storing a setting, the same whether it comes from WRITE SETTING, PROFILE RECALL or the
autoload (R168). -/

namespace Sys2Proof.Machine

/-- What a stored value does at the moment of the write: the speed range clamps the applied steps (R54), the link
error threshold is compared (R10), pause on log high acts on the pause request (R187), and the trim settings restart
the trim loop (R188). Every other setting is read by its owner at its next use. -/
def writeEffect (id : SettingId) (s : State) : State :=
  match id with
  | .speedRange =>
    { s with
      trackers := ⟨clampStep s.settings.speedRange s.trackers.a, clampStep s.settings.speedRange s.trackers.b⟩ }
  | .linkThreshold => compareLinkErrors s
  | .pauseOnLogHigh =>
    { s with
      lines := { s.lines with
        pauseRequest := s.settings.pauseOnLogHigh && (s.lines.pauseRequest || decide (48 ≤ s.log.length)) } }
  | .trimEnable => restartTrim s
  | .trimSide => restartTrim s
  | _ => s

/-- A value is stored in a setting, with its effect (R168). -/
def storeSetting (id : SettingId) (v : Int) (s : State) : State :=
  writeEffect id { s with settings := putSetting s.settings id v }

/-- Every setting of a profile is written into the settings table, in id order (R182, R184, 12.5). -/
def writeProfile (t : Settings) (s : State) : State :=
  allSettings.foldl (fun u id => storeSetting id (settingValue t id) u) s

end Sys2Proof.Machine
end

