-- ==== Sys2Proof/Machine/Reset.lean ====
section
/-! DEFINITION. The unit reset, start-up and the autoload (10.3), and the profile store's completions (10.2). -/

namespace Sys2Proof.Machine

/-! ### The store -/

/-- Changes the profile store. -/
def withStore (f : ProfileStore → ProfileStore) (s : State) : State := { s with store := f s.store }

/-- The operation in progress completes (R180, R181): a save writes its copy and then, with make-default, the header;
an erase leaves the slot empty and falls back from a header that named it. -/
def completeStore (x : ProfileStore) : ProfileStore :=
  match x.state with
  | .idle => x
  | .saving n copy makeDefault =>
    { slots := x.slots.modify n fun y => writtenSlot copy y.serial
      header := if makeDefault then n else x.header
      state := .idle
      elapsed := 0 }
  | .erasing n =>
    { slots := x.slots.set n Slot.erased
      header := if x.header = n then 0 else x.header
      state := .idle
      elapsed := 0 }

/-- The operation in progress is aborted: the slot stays invalid as its execution left it (R185). -/
def abortStore (x : ProfileStore) : ProfileStore := { x with state := .idle, elapsed := 0 }

/-! ### Unit reset and start-up (R183) -/

/-- Every block at its power-on values, both ports DOWN, the store kept with its operation aborted, and the inputs
(alive signals, strap pins, reset line) and the model's own fields as they are. -/
def resetBlocks (phase : Phase) (cause : ResetCause) (s : State) : State :=
  { State.reset with
    unit :=
      { State.reset.unit with
        phase := phase
        resetCause := cause
        straps := s.unit.straps
        resetLine := s.unit.resetLine
        strapAddress := s.unit.strapAddress
        unitAddress := s.unit.unitAddress }
    link := { State.reset.link with alive := s.link.alive }
    store := abortStore s.store
    lines := { LineUnit.reset with lineDuty := 0 }
    freeCount := s.freeCount
    pending := s.pending }

/-- A link state from its alive signal (R1). -/
def linkOf (alive : Bool) : LinkState := if alive then .up else .down

/-- Start-up begins: the strap pins give both addresses, each port follows its alive signal, and the trim line carries
the duty (R1, R11, R183, R191). -/
def beginStartUp (s : State) : State :=
  { s with
    unit :=
      { s.unit with
        phase := .startUp
        startUpMs := 0
        strapAddress := s.unit.straps.setWidth 6
        unitAddress := s.unit.straps.setWidth 6 }
    link := { s.link with link := ⟨linkOf s.link.alive.u, linkOf s.link.alive.d⟩ }
    lines := { s.lines with lineDuty := s.lines.duty } }

/-- The unit reset with its cause; start-up begins at once unless the reset line holds the part (R183, R191). -/
def unitReset (cause : ResetCause) (s : State) : State :=
  if s.unit.resetLine then resetBlocks .held cause s else beginStartUp (resetBlocks .startUp cause s)

/-! ### Autoload (R184) -/

/-- The profile the autoload uses, its outcome, and whether a check failed (the table of R184). -/
def autoloadChoice (x : ProfileStore) : Profile × AutoloadOutcome × Bool :=
  let zero := x.slots.q0
  let named := x.slots.get x.header
  let slot := fun (y : Slot) => y.profile.getD factoryProfile
  if x.header ≠ 0 ∧ slotValid named then (slot named, .default, !slotValid zero)
  else if slotValid zero then (slot zero, if x.header = 0 then .default else .factory, x.header != 0)
  else (factoryProfile, .builtin, true)

/-- The slots whose stored contents have been lost or damaged no longer match their check words (R178, log 12). -/
def damageSlots (damaged : BitVec 4) (x : ProfileStore) : ProfileStore :=
  { x with
    slots := Quad.tabulate fun n =>
      if damaged.getLsbD n.val then invalidate (x.slots.get n) else x.slots.get n }

/-- A failed check of the autoload raises PROFILE_FAULT, once however many checks failed (R184). -/
def noteFault (fault : Bool) (s : State) : State := if fault then raise .profileFault s else s

/-- The serial number IDENTIFY reports: slot 0's when slot 0 is valid, else 0 (R163, R184). -/
def serialOf (x : ProfileStore) : BitVec 32 := if slotValid x.slots.q0 then x.slots.q0.serial.getD 0 else 0

/-- A profile's tables are installed as the tables in use directly, the pending settings applied, and the receivers begin
to test (R24, R183 steps 3 and 4, R184). -/
def finishAutoload (p : Profile) (outcome : AutoloadOutcome) (s : State) : State :=
  applyPending
    { s with
      kernel := p.kernel
      eqSets := p.eqSets
      unit :=
        { s.unit with
          phase := .running
          startUpMs := 6
          autoload := outcome
          serial := serialOf s.store } }

/-- The autoload ends (R183 steps 2 to 4, R184): a failed check raises PROFILE_FAULT; the profile is written into the
settings table and its tables installed. -/
def autoload (s : State) : State :=
  let c := autoloadChoice s.store
  finishAutoload c.1 c.2.1 (writeProfile c.1.settings (noteFault c.2.2 s))

end Sys2Proof.Machine
end

