-- ==== Sys2Proof/Machine/Answers.lean ====
section
/-! DEFINITION. The directive engine's shared operation: routing, the directive queue, the answer (R12, R159 to R162),
and the replies of each directive kind (Chapters 6, 8, 9, 10). -/

namespace Sys2Proof.Machine

/-! ### Taking a directive -/

/-- An answer's outcome and result body. -/
structure Reply where
  code : AnswerCode
  result : List Byte
  deriving DecidableEq, Repr

/-- Whether an outcome counts as refused: any other than OK and CLAMPED (R161). -/
def AnswerCode.refused (c : AnswerCode) : Bool := c != .ok && c != .clamped

/-- One more directive refused, when the outcome says so (R161). -/
def countRefused (c : AnswerCode) (s : State) : State :=
  if c.refused then withCounters (fun k => { k with directivesRefused := countUp k.directivesRefused 1 }) s else s

/-- A directive routed to the engine (R159): executed at once, its answer joining the tail; dropped, counted and
DIRECTIVE_OVERRUN raised when the queue holds 4. -/
def runDirective (kind tag : Byte) (act : State → State × Reply) (s : State) : State :=
  if 4 ≤ s.directives.length then
    raise .directiveOverrun (withCounters (fun k => { k with directivesDropped := countUp k.directivesDropped 1 }) s)
  else
    let x := act s
    let u := countRefused x.2.code x.1
    { u with directives := u.directives ++ [⟨kind, tag, x.2.code, x.2.result⟩] }

/-- Whether a good parcel is handed on at all: only in operation, whatever the port's link state (R8, R183,
R191, log 4). -/
def receiving (s : State) : Bool := s.unit.phase == .running

/-- A good DIRECTIVE (R8, R12): counted, its copy offered upstream unless it is for this unit alone, and executed when
it is for this unit or broadcast (log 11). -/
def takeDirective (h : Header) (body : List Byte) (act : State → State × Reply) (s : State) : State :=
  if receiving s then
    let t := countReceived .D s
    let a := addressIn h.addr
    let u := if a = s.unit.unitAddress then t else offerUpstream ⟨kindDirective, h.addr, h.tag, body⟩ t
    if a = s.unit.unitAddress ∨ a = broadcast then runDirective (directiveKind body) h.tag act u else u
  else s

/-- Whether a directive with this header would be executed now: received, meant for this unit, with room in the queue
(R12, R159). -/
def wouldExecute (h : Header) (s : State) : Bool :=
  receiving s && meantFor s.unit.unitAddress h.addr && decide (s.directives.length < 4)

/-! ### Unit directives (R162 to R165) -/

/-- UNKNOWN, with an empty result body (R162). -/
def replyUnknown (s : State) : State × Reply := (s, ⟨.unknown, []⟩)

/-- The IDENTIFY result (R163, 12.4): family 0x0A43, revision 1, and the fixed capabilities. -/
def replyIdentify (s : State) : State × Reply :=
  (s, ⟨.ok,
    bytesBE 2 0x0A43 ++ [1] ++ bytesBE 4 s.unit.serial.toNat ++ [addressByte s.unit.strapAddress,
      addressByte s.unit.unitAddress, byteOf (resetCauseCode s.unit.resetCause), byteOf (autoloadCode s.unit.autoload), 4]
      ++ bytesBE 2 512 ++ [64] ++ bytesBE 2 1024 ++ [63, 4]⟩)

/-- One side's 17 bytes of STATUS (12.4). -/
def statusSide (s : State) (d : Side) : List Byte :=
  let t := s.trackers.get d
  [byteOf (trackerCode t.state)] ++ signedBE 4 t.appliedStep ++ signedBE 4 t.targetStep ++ signedBE 4 t.skewInForce
    ++ bytesBE 2 s.intake.applied.window ++ bytesBE 2 s.settings.window

/-- The STATUS result (R164, 12.4). -/
def replyStatus (s : State) : State × Reply :=
  (s, ⟨.ok,
    statusSide s .A ++ statusSide s .B ++ s.detectors.toList.map (fun d => byteOf (detectorCode d.state))
      ++ [byteOf s.log.length] ++ bytesBE 2 s.flags.toNat
      ++ [byteOf (boolCode s.stager.loading), byteOf (installCode s.stager.install), byteOf (storeCode s.store.state),
        byteOf (transportCode s.intake.transport), byteOf (boolCode s.intake.running), s.intake.passNumber]
      ++ bytesBE 4 s.intake.position ++ [byteOf s.lines.duty]⟩)

/-- SET ADDRESS (R165): 0 to 62 replaces the unit address, 63 or more is RANGE; before and after are reported. -/
def replySetAddress (address : Byte) (s : State) : State × Reply :=
  if address.toNat ≤ 62 then
    ({ s with unit := { s.unit with unitAddress := addressIn address } },
      ⟨.ok, [addressByte s.unit.unitAddress, address]⟩)
  else (s, ⟨.range, [addressByte s.unit.unitAddress, addressByte s.unit.unitAddress]⟩)

/-! ### Settings (R166, R167) -/

/-- READ SETTING (R166). For an id that names no setting R166 names both values, 0, and R160 makes the id field 0 too. -/
def replyReadSetting (id : Byte) (s : State) : State × Reply :=
  match settingOf id.toNat with
  | some n =>
    (s, ⟨.ok, [id] ++ signedBE 4 (settingValue s.settings n) ++ signedBE 4 (appliedValue s.intake.applied s.settings n)⟩)
  | none => (s, ⟨.unknown, List.replicate 9 0⟩)

/-- WRITE SETTING (R167): the stored value is reported whatever the outcome. -/
def replyWriteSetting (id : Byte) (value : BitVec 32) (s : State) : State × Reply :=
  match settingOf id.toNat with
  | none => (s, ⟨.unknown, [id] ++ List.replicate 4 0⟩)
  | some n =>
    match judgeSetting (settingKind n) value.toInt with
    | (some v, code) =>
      let t := storeSetting n v s
      (t, ⟨code, [id] ++ signedBE 4 (settingValue t.settings n)⟩)
    | (none, code) => (s, ⟨code, [id] ++ signedBE 4 (settingValue s.settings n)⟩)

/-! ### The correction map (R109 to R114) -/

/-- The 16 bytes of a map entry (12.4). -/
def entryBytes (e : MapEntry) : List Byte :=
  bytesBE 2 e.id ++ [byteOf (mapClassCode e.cls), byteOf e.lanes.toNat] ++ bytesBE 4 e.start ++ bytesBE 4 e.stop
    ++ bytesBE 4 e.param.toNat

/-- The outcome of the five insert checks, and the entry to insert when they pass (R109, R106). -/
def judgeInsert (cls lanes : Byte) (start stop param : BitVec 32) (s : State) : Except AnswerCode MapEntry :=
  match formCheck cls lanes start stop param with
  | none => .error .form
  | some c =>
    match freeId s.map.entries with
    | none => .error .full
    | some id =>
      let e : MapEntry := ⟨id, c, lanes.setWidth 4, start.toNat, stop.toNat, param⟩
      if 512 ≤ s.map.entries.length then .error .full
      else if intersectsSpan s e.start e.stop then .error .late
      else if conflicts s.map.entries e then .error .conflict
      else if crowded s.map.entries e then .error .crowded
      else .ok e

/-- MAP INSERT (R109): every answer carries the id (0 unless OK), the number held after, and the span as judged. -/
def replyMapInsert (cls lanes : Byte) (start stop param : BitVec 32) (s : State) : State × Reply :=
  match judgeInsert cls lanes start stop param s with
  | .error code => (s, ⟨code, bytesBE 2 0 ++ bytesBE 2 s.map.entries.length ++ spanBlock s⟩)
  | .ok e =>
    let t := setEntries (insertEntry e s.map.entries) s
    (t, ⟨.ok, bytesBE 2 e.id ++ bytesBE 2 t.map.entries.length ++ spanBlock s⟩)

/-- MAP DELETE (R112): RANGE, EMPTY, LATE in that order; OK carries the deleted entry's fields. -/
def replyMapDelete (id : BitVec 16) (s : State) : State × Reply :=
  let refuse := fun (code : AnswerCode) =>
    (s, (⟨code, List.replicate 16 0 ++ bytesBE 2 s.map.entries.length ++ spanBlock s⟩ : Reply))
  if 511 < id.toNat then refuse .range
  else
    match entryById s.map.entries id.toNat with
    | none => refuse .empty
    | some e =>
      if intersectsSpan s e.start e.stop then refuse .late
      else
        let t := setEntries (s.map.entries.filter (·.id != e.id)) s
        (t, ⟨.ok, entryBytes e ++ bytesBE 2 t.map.entries.length ++ spanBlock s⟩)

/-- MAP READ (R114). -/
def replyMapRead (ordinal : BitVec 16) (s : State) : State × Reply :=
  let rest := bytesBE 2 s.map.entries.length ++ spanBlock s
  match s.map.entries[ordinal.toNat]? with
  | some e =>
    if 511 < ordinal.toNat then (s, ⟨.range, List.replicate 17 0 ++ rest⟩)
    else (s, ⟨.ok, entryBytes e ++ [byteOf ((activeLanes s e).map fun l => 2 ^ l.val).sum] ++ rest⟩)
  | none =>
    (s, ⟨if 511 < ordinal.toNat then .range else .empty, List.replicate 17 0 ++ rest⟩)

/-- MAP CLEAR (R113): every entry that does not intersect the span is deleted. -/
def replyMapClear (s : State) : State × Reply :=
  let kept := s.map.entries.filter fun e => intersectsSpan s e.start e.stop
  (setEntries kept s,
    ⟨.ok, bytesBE 2 (s.map.entries.length - kept.length) ++ bytesBE 2 kept.length ++ spanBlock s⟩)

/-! ### Table loads (R170 to R174) -/

/-- Changes the table stager. -/
def withStager (f : Stager → Stager) (s : State) : State := { s with stager := f s.stager }

/-- The chunks a table takes: 128 for KERNEL, 1 for an EQ set (R170). -/
def chunksOf : TableCode → Nat
  | .kernel => 128
  | .eq _ => 1

/-- The load timer started or restarted with the load timeout in force (R170, R171). -/
def startTimer (s : State) : Option LoadTimer := some ⟨0, s.settings.loadTimeout⟩

/-- LOAD BEGIN (R170). The result carries the table code and the chunks expected (log 13). -/
def replyLoadBegin (table : Byte) (s : State) : State × Reply :=
  match tableOfCode table.toNat with
  | none => (s, ⟨.range, [table, byteOf s.stager.expected]⟩)
  | some c =>
    if s.stager.loading ∨ s.stager.install ≠ .none then (s, ⟨.busy, [table, byteOf s.stager.expected]⟩)
    else
      let t := withStager (fun g =>
        { g with
          loading := true
          table := some c
          expected := chunksOf c
          next := 0
          sum := 0
          timer := startTimer s
          staging := List.replicate 4096 0 }) s
      (t, ⟨.ok, [table, byteOf (chunksOf c)]⟩)

/-- Whether a word lies in the range of its table (R171). -/
def wordAllowed (c : Option TableCode) (w : Int) : Bool :=
  match c with
  | some .kernel => decide (-32768 ≤ w) && decide (w ≤ 32767)
  | _ => decide (-8388608 ≤ w) && decide (w ≤ 8388607)

/-- Words written into the staging area from a place on (R171). -/
def putWords (staging : List Int) (place : Nat) (words : List Int) : List Int :=
  staging.take place ++ words ++ staging.drop (place + words.length)

/-- LOAD CHUNK (R171): every answer carries the index carried and the next index after. -/
def replyLoadChunk (index : Byte) (words : List (BitVec 32)) (s : State) : State × Reply :=
  let g := s.stager
  let refuse := fun (code : AnswerCode) => (s, (⟨code, [index, byteOf g.next]⟩ : Reply))
  if !g.loading then refuse .noload
  else if index.toNat ≠ g.next ∨ g.expected ≤ g.next then refuse .order
  else if !(words.all fun w => wordAllowed g.table w.toInt) then refuse .form
  else
    (withStager (fun g =>
      { g with
        staging := putWords g.staging (32 * index.toNat) (words.map (·.toInt))
        sum := g.sum + words.sum
        next := g.next + 1
        timer := startTimer s }) s,
      ⟨.ok, [index, byteOf (g.next + 1)]⟩)

/-- A load abandoned with its event (R172, R173). -/
def abandonWithEvent (s : State) : State := raise .loadAbandoned (abandonLoad s)

/-- The installation a load's table calls for. -/
def installOfLoad (c : Option TableCode) : Install :=
  match c with
  | some t => .load t
  | none => .none

/-- LOAD END (R172). The result carries the sum carried and the running sum (log 13). -/
def replyLoadEnd (sum : BitVec 32) (s : State) : State × Reply :=
  let g := s.stager
  let result := bytesBE 4 sum.toNat ++ bytesBE 4 g.sum.toNat
  if !g.loading then (s, ⟨.noload, result⟩)
  else if g.next < g.expected ∨ sum ≠ g.sum then (abandonWithEvent s, ⟨.check, result⟩)
  else (markInstall (installOfLoad g.table) (abandonLoad s), ⟨.ok, result⟩)

/-- LOAD CANCEL (R174): no event. -/
def replyLoadCancel (s : State) : State × Reply :=
  if s.stager.loading then (abandonLoad s, ⟨.ok, []⟩) else (s, ⟨.noload, []⟩)

/-! ### Events and counters (R148, R151) -/

/-- ACK EVENTS (R148): the named flags clear, and with LINK_DEGRADED both link-error counts. -/
def replyAckEvents (set : BitVec 16) (s : State) : State × Reply :=
  let named := set.setWidth 12
  let t := clearFlags named s
  let u := if holdsEvent named .linkDegraded then { t with link := { t.link with errors := ⟨0, 0⟩ } } else t
  (u, ⟨.ok, bytesBE 2 u.flags.toNat⟩)

/-- The 47 counters in the order of R150. -/
def Counters.toList (c : Counters) : List (BitVec 32) :=
  [c.receivedU, c.receivedD, c.checkErrorsU, c.checkErrorsD, c.malformed, c.streamGaps, c.streamBreaks, c.rawDiscarded,
    c.directivesRefused, c.directivesDropped, c.forwardedDropped, c.unloggedDropouts, c.cuesDropped,
    c.outputFrames.a, c.outputFrames.b, c.lockAcquisitions.a, c.lockAcquisitions.b, c.timeBaseLosses.a,
    c.timeBaseLosses.b, c.heldParcels.a, c.heldParcels.b, c.cleanDiscarded.a, c.cleanDiscarded.b]
    ++ c.framesAdmitted.toList ++ c.dropoutsClosed.toList ++ c.markedFrames.toList ++ c.repairedSamples.toList
    ++ c.damagedUnrepaired.toList ++ c.clippedSamples.toList

/-- SNAPSHOT COUNTERS (R151). -/
def replySnapshot (clear : Byte) (s : State) : State × Reply :=
  let values := s.counters.toList.flatMap fun c => bytesBE 4 c.toNat
  if clear = 0 then (s, ⟨.ok, values⟩)
  else if clear = 1 then (withCounters (fun _ => Counters.zero) s, ⟨.ok, values⟩)
  else (s, ⟨.range, List.replicate 188 0⟩)

/-! ### The profile store (R180 to R182) -/

/-- Whether the store is SAVING or ERASING (R179). -/
def storeBusy (s : State) : Bool := s.store.state != .idle

/-- The copy a save takes: the settings table and the tables in use (R180). -/
def profileInUse (s : State) : Profile := ⟨s.settings, s.kernel, s.eqSets⟩

/-- The conditions PROFILE SAVE and PROFILE ERASE share, in order, after the argument ranges (R180, R181). -/
def judgeStoreWrite (slot : Byte) (s : State) : Except AnswerCode (Fin 4) :=
  match slotOfCode slot.toNat with
  | none => .error .range
  | some n =>
    if n = 0 then .error .protectedSlot
    else if storeBusy s then .error .busy
    else if s.stager.install = .recall n then .error .busy
    else .ok n

/-- A slot becomes invalid at once (R180, R181). -/
def spoilSlot (n : Fin 4) (x : ProfileStore) : ProfileStore :=
  { x with slots := x.slots.modify n invalidate }

/-- PROFILE SAVE (R180). -/
def replyProfileSave (slot makeDefault : Byte) (s : State) : State × Reply :=
  if makeDefault ≠ 0 ∧ makeDefault ≠ 1 then (s, ⟨.range, [0, 0]⟩)
  else
    match judgeStoreWrite slot s with
    | .error code => (s, ⟨code, [0, 0]⟩)
    | .ok n =>
      (withStore (fun x =>
        { spoilSlot n x with state := .saving n (profileInUse s) (makeDefault == 1), elapsed := 0 }) s,
        ⟨.ok, [slot, makeDefault]⟩)

/-- PROFILE ERASE (R181). -/
def replyProfileErase (slot : Byte) (s : State) : State × Reply :=
  match judgeStoreWrite slot s with
  | .error code => (s, ⟨code, [0]⟩)
  | .ok n => (withStore (fun x => { spoilSlot n x with state := .erasing n, elapsed := 0 }) s, ⟨.ok, [slot]⟩)

/-- PROFILE RECALL (R182). -/
def replyProfileRecall (slot : Byte) (s : State) : State × Reply :=
  match slotOfCode slot.toNat with
  | none => (s, ⟨.range, [0]⟩)
  | some n =>
    if storeBusy s ∨ s.stager.loading ∨ s.stager.install ≠ .none then (s, ⟨.busy, [0]⟩)
    else if !slotValid (s.store.slots.get n) then (s, ⟨.empty, [0]⟩)
    else
      match (s.store.slots.get n).profile with
      | none => (s, ⟨.empty, [0]⟩)
      | some p => (markInstall (.recall n) (writeProfile p.settings s), ⟨.ok, [slot]⟩)

/-! ### The reset directives (R176, R177) -/

/-- RESET ENGINE (R176). -/
def replyResetEngine (s : State) : State × Reply := (engineReset s, ⟨.ok, []⟩)

/-- RESET UNIT is answered OK; its reset comes with the answer's transmission or with Port D DOWN (R177). -/
def replyResetUnit (s : State) : State × Reply := (s, ⟨.ok, []⟩)

/-- The directive kind of RESET UNIT (12.4). -/
def kindResetUnit : Byte := 0x51

/-- Whether the answer to a RESET UNIT waits in the directive queue. -/
def resetWaits (s : State) : Bool := s.directives.any fun a => a.kind == kindResetUnit

end Sys2Proof.Machine
end

