-- ==== Sys2Proof/Machine/Lines.lean ====
section
/-! DEFINITION. The indicator lines (R186), and how a command ends: every line stands at its source. -/

namespace Sys2Proof.Machine

/-- Whether an indicator source is true (R186). -/
def sourceTrue (s : State) : IndicatorSource → Bool
  | .low => false
  | .high => true
  | .lockA => s.trackers.a.state == .locked
  | .lockB => s.trackers.b.state == .locked
  | .lockAll =>
    (sideActive s .A || sideActive s .B) && (!sideActive s .A || s.trackers.a.state == .locked)
      && (!sideActive s .B || s.trackers.b.state == .locked)
  | .lockAny => s.trackers.a.state == .locked || s.trackers.b.state == .locked
  | .dropoutAny => s.detectors.toList.any fun d => d.state == .dropout || d.state == .recovering
  | .eventPending => eventPending s
  | .logHigh => decide (48 ≤ s.log.length)
  | .pauseRequest => s.lines.pauseRequest

/-- The level of an indicator line: its source's truth, and low without power or in reset (R191). -/
def lineLevel (s : State) (line : Fin 4) : Bool := outOfReset s && sourceTrue s (s.settings.indicator.get line)

/-- Every indicator line set to its level (log 20). -/
def settleLines (s : State) : State :=
  { s with lines := { s.lines with levels := Quad.tabulate (lineLevel s) } }

/-- A command ends: the lines follow their sources, and the part goes on. -/
def done (s : State) : Host.Outcome State Fault Refusal := .next (settleLines s)

end Sys2Proof.Machine
end

