-- ==== Sys2Proof/Machine/Clock.lean ====
section
/-! DEFINITION. Meanings: the moments of the K430's own clocks (R173, R180, R181, R190), and the millisecond that passes
when no command waits (log 2). -/

namespace Sys2Proof.Machine

/-- LOAD_TIMER_EXPIRY: the load timer of a load in progress expires (R173, logs 3 and 6). -/
def execLoadTimerExpiry (s : State) : Host.Outcome State Fault Refusal :=
  done (if s.stager.loading then abandonWithEvent s else s)

/-- Whether a save is in progress. -/
def isSaving (x : StoreState) : Bool :=
  match x with
  | .saving _ _ _ => true
  | _ => false

/-- Whether an erase is in progress. -/
def isErasing (x : StoreState) : Bool :=
  match x with
  | .erasing _ => true
  | _ => false

/-- PROFILE_SAVE_COMPLETE (R180, logs 3 and 6). -/
def execProfileSaveComplete (s : State) : Host.Outcome State Fault Refusal :=
  done (if isSaving s.store.state then withStore completeStore s else s)

/-- PROFILE_ERASE_COMPLETE (R181, logs 3 and 6). -/
def execProfileEraseComplete (s : State) : Host.Outcome State Fault Refusal :=
  done (if isErasing s.store.state then withStore completeStore s else s)

/-- A new pulse period of the trim line takes up the duty in force (R190). -/
def takeUpDuty (s : State) : State :=
  if outOfReset s then { s with lines := { s.lines with lineDuty := s.lines.duty } } else s

/-- TRIM_PULSE_PERIOD (R190). -/
def execTrimPulsePeriod (s : State) : Host.Outcome State Fault Refusal := done (takeUpDuty s)

/-! ### The millisecond tick -/

/-- The load timer's millisecond: it expires when its count reaches the timeout taken at its start (R173). -/
def tickLoad (s : State) : State :=
  match s.stager.timer with
  | some t =>
    if t.timeout ≤ t.elapsed + 1 then abandonWithEvent s
    else withStager (fun g => { g with timer := some { t with elapsed := t.elapsed + 1 } }) s
  | none => s

/-- How long an operation keeps the store, in ms: 60 for a save, 40 for an erase (R179). -/
def storeTime (x : StoreState) : Nat :=
  match x with
  | .idle => 0
  | .saving _ _ _ => 60
  | .erasing _ => 40

/-- The store's millisecond: an operation completes when its time has run out (R179). -/
def tickStore (s : State) : State :=
  if s.store.state = .idle then s
  else if storeTime s.store.state ≤ s.store.elapsed + 1 then withStore completeStore s
  else withStore (fun x => { x with elapsed := x.elapsed + 1 }) s

/-- The start-up's millisecond: the autoload takes 6 ms (R183). -/
def tickStartUp (s : State) : State :=
  if 6 ≤ s.unit.startUpMs + 1 then autoload s
  else { s with unit := { s.unit with startUpMs := s.unit.startUpMs + 1 } }

/-- One millisecond in which no command is taken (log 2). -/
def tick (s : State) : State :=
  match s.unit.phase with
  | .off => s
  | .held => s
  | .startUp => takeUpDuty (tickStartUp s)
  | .running => takeUpDuty (tickStore (tickLoad s))

end Sys2Proof.Machine
end

