-- ==== Sys2Proof/Machine/Transmit.lean ====
section
/-! DEFINITION. The parcels the K430 originates (12.3, R192) and the report arbiter (8.5). -/

namespace Sys2Proof.Machine

/-! ### Bodies (12.3, 12.4) -/

/-- One sample and its flag set in a CLEAN frame slot. -/
def sampleBytes (x : SampleOut) : List Byte := signedBE 3 x.sample ++ bytesBE 2 x.flags.word

/-- One frame slot of a CLEAN body: the side's first lane, then its second. -/
def slotBytes (f : CleanFrame) : List Byte := sampleBytes f.first ++ sampleBytes f.second

/-- The body of a CLEAN parcel; slots at and beyond the frame count are 0. -/
def cleanBody (p : CleanParcel) : List Byte :=
  [byteOf (sideCode p.side), p.pass, byteOf p.frames.length,
    byteOf (trackerCode p.tracker + if p.reversed then 128 else 0)]
    ++ bytesBE 4 p.firstNumber ++ bytesBE 4 p.rawSource ++ p.frames.flatMap slotBytes
    ++ List.replicate (160 - 10 * p.frames.length) 0

/-- The body of an ANSWER parcel. -/
def answerBody (a : Answer) : List Byte := [a.kind, byteOf a.code.code] ++ a.result

/-- The body of a NOTICE parcel. -/
def noticeBody (n : Notice) : List Byte := [byteOf n.kind.code, n.pass] ++ bytesBE 4 n.position

/-- The body of a CUE parcel. -/
def cueBody (c : Cue) : List Byte :=
  bytesBE 2 c.id ++ bytesBE 2 c.label ++ [byteOf (boolCode c.isEnd), byteOf (sideCode c.side)] ++ bytesBE 4 c.frame

/-- The body of a DAMAGE parcel. -/
def damageBody (r : DamageRecord) : List Byte :=
  [byteOf r.lane.val, byteOf (bitAt r.gap 0 + bitAt r.cut 1), byteOf r.lowest, r.pass]
    ++ bytesBE 4 r.start ++ bytesBE 4 r.stop

/-- A parcel the K430 originates: the unit address in force, and the tag R13 gives it (R192). -/
def originate (s : State) (kind tag : Byte) (body : List Byte) : Parcel :=
  ⟨kind, addressByte s.unit.unitAddress, tag, body⟩

/-! ### The arbiter's sources (R154) -/

/-- The parcel a source's head would be sent as now; none when the source is empty. -/
def headParcel (s : State) (x : Source) : Option Parcel :=
  match x with
  | .clean d => (s.cleanQueues.get d).head?.map fun p => originate s kindClean 0 (cleanBody p)
  | .directive => s.directives.head?.map fun a => originate s kindAnswer a.tag (answerBody a)
  | .notice => s.notices.head?.map fun n => originate s kindNotice 0 (noticeBody n)
  | .cue => s.cues.head?.map fun c => originate s kindCue 0 (cueBody c)
  | .downstream => s.link.downstream.head?
  | .damage => s.log.head?.map fun r => originate s kindDamage 0 (damageBody r)

/-- Whether a source holds a parcel. -/
def holdsParcel (s : State) (x : Source) : Bool := (headParcel s x).isSome

/-- The non-clean sources in rank order (R154). -/
def nonCleanSources : List Source := [.directive, .notice, .cue, .downstream, .damage]

/-- The highest-ranked non-clean source that holds a parcel. -/
def nonCleanChoice (s : State) : Option Source := nonCleanSources.find? (holdsParcel s)

/-- The clean queue chosen by the next side (R155). -/
def cleanChoice (s : State) : Option Source :=
  [Source.clean s.arbiter.nextSide, Source.clean s.arbiter.nextSide.other].find? (holdsParcel s)

/-- The arbiter's choice (R153). -/
def arbiterPick (s : State) : Option Source :=
  if s.arbiter.owed then (nonCleanChoice s).or (cleanChoice s) else (cleanChoice s).or (nonCleanChoice s)

/-- A choice is made whenever Port D is UP, nothing is in transmission, and a source holds a parcel (R152): its head
becomes the parcel in transmission. -/
def makeChoice (s : State) : State :=
  if s.link.link.d = .up ∧ s.arbiter.sending = none then
    match arbiterPick s with
    | some x => { s with arbiter := { s.arbiter with sending := (headParcel s x).map fun p => ⟨x, p⟩ } }
    | none => s
  else s

/-- The head leaves its source (R154). -/
def removeHead (x : Source) (s : State) : State :=
  match x with
  | .clean d => { s with cleanQueues := s.cleanQueues.modify d List.tail }
  | .directive => { s with directives := s.directives.tail }
  | .notice => { s with notices := s.notices.tail }
  | .cue => { s with cues := s.cues.tail }
  | .downstream => { s with link := { s.link with downstream := s.link.downstream.tail } }
  | .damage => removeDamage s

/-- The arbiter's state when a transmission of a source completes (R153, R155). -/
def arbiterAfter (x : Source) (a : Arbiter) : Arbiter :=
  match x with
  | .clean d => { a with owed := true, nextSide := d.other, sending := none }
  | _ => { a with owed := false, sending := none }

/-- Whether the parcel in transmission answers a RESET UNIT (R177). -/
def sendingReset (s : State) (x : Source) : Bool :=
  x == .directive && (s.directives.head?.map (·.kind)) == some kindResetUnit

/-- A transmission on Port D completes (R152): the head leaves its source and the arbiter's state changes; the answer
to RESET UNIT makes the unit reset (R177). -/
def completeTransmission (s : State) : State :=
  match s.arbiter.sending with
  | none => s
  | some x =>
    let t := removeHead x.source { s with arbiter := arbiterAfter x.source s.arbiter }
    if sendingReset s x.source then unitReset .directive t else t

/-! ### Port U's transmitter (R14) -/

/-- The transmitter begins to send the head of the upstream forward queue. -/
def startUpstream (s : State) : State :=
  if s.link.link.u = .up ∧ s.link.sendingU = none then
    { s with link := { s.link with sendingU := s.link.upstream.head? } }
  else s

/-- A transmission on Port U completes: the head leaves the queue. -/
def completeUpstream (s : State) : State :=
  match s.link.sendingU with
  | some _ => { s with link := { s.link with sendingU := none, upstream := s.link.upstream.tail } }
  | none => s

/-! ### Link states (R1, R2) -/

/-- A port's alive signal appears: in operation and in start-up the port is UP, with no event (R1, R191). -/
def portUp (p : Port) (s : State) : State :=
  let t := { s with link := { s.link with alive := s.link.alive.set p true } }
  if outOfReset t then { t with link := { t.link with link := t.link.link.set p .up } } else t

/-- A transmission on a port is cut off: the head stays with its source (R2, R14, R156). -/
def cutTransmission (p : Port) (s : State) : State :=
  match p with
  | .U => { s with link := { s.link with sendingU := none } }
  | .D => { s with arbiter := { s.arbiter with sending := none } }

/-- A port's alive signal is lost. A port that was UP becomes DOWN and PORT_DOWN is raised; a transmission on it is cut
off; then Port U ends a running pass (R32, log 14), and Port D makes the unit reset of a RESET UNIT whose answer waits
(R177). -/
def portDown (p : Port) (s : State) : State :=
  let t := { s with link := { s.link with alive := s.link.alive.set p false } }
  if t.link.link.get p = .up then
    let u := cutTransmission p
      (raise .portDown { t with link := { t.link with link := t.link.link.set p .down } })
    match p with
    | .U => endIfRunning u
    | .D => if resetWaits u then unitReset .directive u else u
  else t

end Sys2Proof.Machine
end

