-- ==== Sys2Proof/Machine/Directives.lean ====
section
/-! DEFINITION. Meanings: the directives (Chapters 6, 8, 9 and 10). Each is routed, executed and answered by the one
shared operation (R12, R159), with the body the command spells. -/

namespace Sys2Proof.Machine

/-- IDENTIFY (R163). -/
def execIdentify (h : Header) (s : State) : Host.Outcome State Fault Refusal :=
  done (takeDirective h (directiveBody (.identify h)) replyIdentify s)

/-- STATUS (R164). -/
def execStatus (h : Header) (s : State) : Host.Outcome State Fault Refusal :=
  done (takeDirective h (directiveBody (.status h)) replyStatus s)

/-- SET ADDRESS (R11, R165). -/
def execSetAddress (h : Header) (address : Byte) (s : State) : Host.Outcome State Fault Refusal :=
  done (takeDirective h (directiveBody (.setAddress h address)) (replySetAddress address) s)

/-- READ SETTING (R166). -/
def execReadSetting (h : Header) (id : Byte) (s : State) : Host.Outcome State Fault Refusal :=
  done (takeDirective h (directiveBody (.readSetting h id)) (replyReadSetting id) s)

/-- WRITE SETTING (R167, R168). -/
def execWriteSetting (h : Header) (id : Byte) (value : BitVec 32) (s : State) : Host.Outcome State Fault Refusal :=
  done (takeDirective h (directiveBody (.writeSetting h id value)) (replyWriteSetting id value) s)

/-- MAP INSERT (R109). -/
def execMapInsert (h : Header) (cls lanes : Byte) (start stop param : BitVec 32) (s : State) :
    Host.Outcome State Fault Refusal :=
  done (takeDirective h (directiveBody (.mapInsert h cls lanes start stop param))
    (replyMapInsert cls lanes start stop param) s)

/-- MAP DELETE (R112). -/
def execMapDelete (h : Header) (id : BitVec 16) (s : State) : Host.Outcome State Fault Refusal :=
  done (takeDirective h (directiveBody (.mapDelete h id)) (replyMapDelete id) s)

/-- MAP READ (R114). -/
def execMapRead (h : Header) (ordinal : BitVec 16) (s : State) : Host.Outcome State Fault Refusal :=
  done (takeDirective h (directiveBody (.mapRead h ordinal)) (replyMapRead ordinal) s)

/-- MAP CLEAR (R113). -/
def execMapClear (h : Header) (s : State) : Host.Outcome State Fault Refusal :=
  done (takeDirective h (directiveBody (.mapClear h)) replyMapClear s)

/-- LOAD BEGIN (R170). -/
def execLoadBegin (h : Header) (table : Byte) (s : State) : Host.Outcome State Fault Refusal :=
  done (takeDirective h (directiveBody (.loadBegin h table)) (replyLoadBegin table) s)

/-- LOAD CHUNK (R171). -/
def execLoadChunk (h : Header) (index : Byte) (words : Vector (BitVec 32) 32) (s : State) :
    Host.Outcome State Fault Refusal :=
  done (takeDirective h (directiveBody (.loadChunk h index words)) (replyLoadChunk index words.toList) s)

/-- LOAD END (R172). -/
def execLoadEnd (h : Header) (sum : BitVec 32) (s : State) : Host.Outcome State Fault Refusal :=
  done (takeDirective h (directiveBody (.loadEnd h sum)) (replyLoadEnd sum) s)

/-- LOAD CANCEL (R174). -/
def execLoadCancel (h : Header) (s : State) : Host.Outcome State Fault Refusal :=
  done (takeDirective h (directiveBody (.loadCancel h)) replyLoadCancel s)

/-- ACK EVENTS (R148). -/
def execAckEvents (h : Header) (set : BitVec 16) (s : State) : Host.Outcome State Fault Refusal :=
  done (takeDirective h (directiveBody (.ackEvents h set)) (replyAckEvents set) s)

/-- SNAPSHOT COUNTERS (R151). -/
def execSnapshotCounters (h : Header) (clear : Byte) (s : State) : Host.Outcome State Fault Refusal :=
  done (takeDirective h (directiveBody (.snapshotCounters h clear)) (replySnapshot clear) s)

/-- PROFILE SAVE (R180). -/
def execProfileSave (h : Header) (slot makeDefault : Byte) (s : State) : Host.Outcome State Fault Refusal :=
  done (takeDirective h (directiveBody (.profileSave h slot makeDefault)) (replyProfileSave slot makeDefault) s)

/-- PROFILE ERASE (R181). -/
def execProfileErase (h : Header) (slot : Byte) (s : State) : Host.Outcome State Fault Refusal :=
  done (takeDirective h (directiveBody (.profileErase h slot)) (replyProfileErase slot) s)

/-- PROFILE RECALL (R182). -/
def execProfileRecall (h : Header) (slot : Byte) (s : State) : Host.Outcome State Fault Refusal :=
  done (takeDirective h (directiveBody (.profileRecall h slot)) (replyProfileRecall slot) s)

/-- RESET ENGINE (R176). -/
def execResetEngine (h : Header) (s : State) : Host.Outcome State Fault Refusal :=
  done (takeDirective h (directiveBody (.resetEngine h)) replyResetEngine s)

/-- RESET UNIT (R177): answered, and where Port D is DOWN at its execution the unit reset takes place at once. -/
def execResetUnit (h : Header) (s : State) : Host.Outcome State Fault Refusal :=
  let t := takeDirective h (directiveBody (.resetUnit h)) replyResetUnit s
  done (if wouldExecute h s ∧ s.link.link.d = .down then unitReset .directive t else t)

end Sys2Proof.Machine
end

