-- ==== Sys2Proof/Machine/LinkCommands.lean ====
section
/-! DEFINITION. Meanings: link states, converter reports, and both transmitters (Chapters 1 and 8). -/

namespace Sys2Proof.Machine

/-- PORT_GOES_UP (R1). -/
def execPortGoesUp (p : Port) (s : State) : Host.Outcome State Fault Refusal := done (portUp p s)

/-- PORT_GOES_DOWN (R1, R2, R32, R156, R177). -/
def execPortGoesDown (p : Port) (s : State) : Host.Outcome State Fault Refusal := done (portDown p s)

/-- CONVERTER_REPORT: counted and offered to the downstream forward queue, its body not examined (R3, R15). -/
def execConverterReport (h : Header) (body : List Byte) (s : State) : Host.Outcome State Fault Refusal :=
  done (if receiving s then offerDownstream ⟨kindReport, h.addr, h.tag, body⟩ (countReceived .U s) else s)

/-- UPSTREAM_TRANSMIT_START (R14). -/
def execUpstreamTransmitStart (s : State) : Host.Outcome State Fault Refusal := done (startUpstream s)

/-- UPSTREAM_FORWARD_TRANSMITTED (R14). -/
def execUpstreamForwardTransmitted (s : State) : Host.Outcome State Fault Refusal := done (completeUpstream s)

/-- ARBITER_CHOICE (R152, R153). -/
def execArbiterChoice (s : State) : Host.Outcome State Fault Refusal := done (makeChoice s)

/-- PARCEL_TRANSMITTED (R152, R153, R155, R177). -/
def execParcelTransmitted (s : State) : Host.Outcome State Fault Refusal := done (completeTransmission s)

end Sys2Proof.Machine
end

