-- ==== Sys2Proof/Machine/PowerReset.lean ====
section
/-! DEFINITION. Meanings: power, the reset line, the end of the autoload (Chapter 10, R191). -/

namespace Sys2Proof.Machine

/-- The strap pins' levels, as the command brings them (log 19). -/
def setStraps (straps : BitVec 3) (s : State) : State := { s with unit := { s.unit with straps := straps } }

/-- The reset line's level. -/
def setResetLine (b : Bool) (s : State) : State := { s with unit := { s.unit with resetLine := b } }

/-- POWER_ON: a unit reset with the cause POWER (R183). -/
def execPowerOn (straps : BitVec 3) (s : State) : Host.Outcome State Fault Refusal :=
  done (unitReset .power (setStraps straps s))

/-- RESET_LINE_ASSERT: the part is held in reset, ports DOWN and lines low (R191); without power only the pin changes. -/
def execResetLineAssert (s : State) : Host.Outcome State Fault Refusal :=
  let t := setResetLine true s
  done (if s.unit.phase = .off then t else unitReset .line t)

/-- RESET_LINE_RELEASE: a part held in reset begins start-up with the cause LINE (R191). -/
def execResetLineRelease (straps : BitVec 3) (s : State) : Host.Outcome State Fault Refusal :=
  let t := setStraps straps (setResetLine false s)
  done (if s.unit.phase = .held then unitReset .line t else t)

/-- AUTOLOAD_COMPLETE: the end of the autoload, in start-up (R183, R184). -/
def execAutoloadComplete (damaged : BitVec 4) (s : State) : Host.Outcome State Fault Refusal :=
  done (if s.unit.phase = .startUp then autoload (withStore (damageSlots damaged) s) else s)

/-- POWER_LOSS: the part stops; a store operation in progress is aborted (R183, R185, log 19). -/
def execPowerLoss (s : State) : Host.Outcome State Fault Refusal :=
  done (resetBlocks .off s.unit.resetCause s)

end Sys2Proof.Machine
end

