-- ==== Sys2Proof/Machine/StreamCommands.lean ====
section
/-! DEFINITION. Meanings: the raw stream (Chapter 2). -/

namespace Sys2Proof.Machine

/-- RAW_PARCEL: counted, and taken by raw intake (R8, R19). -/
def execRawParcel (first : BitVec 32) (frames : Vector RawFrame 16) (s : State) : Host.Outcome State Fault Refusal :=
  done (if receiving s then takeRaw first.toNat frames.toList (countReceived .U s) else s)

/-- DECK_PARCEL: counted, its transport state taken, and the parcel offered downstream (R3, R15, R17). -/
def execDeckParcel (h : Header) (code : Byte) (s : State) : Host.Outcome State Fault Refusal :=
  done (if receiving s then
      offerDownstream ⟨kindDeck, h.addr, h.tag, [code]⟩ (takeTransport code.toNat (countReceived .U s))
    else s)

end Sys2Proof.Machine
end

