-- ==== Sys2Proof/Machine/Delivery.lean ====
section
/-! DEFINITION. Meanings: delivered byte sequences (R4 to R8), and directives that are for another unit or of an unknown
kind (R12, R162). -/

namespace Sys2Proof.Machine

/-- A good parcel is handed on as the command it spells (R3, R12). A command no parcel spells is not handed on. -/
def handOn (i : Instr) (s : State) : Host.Outcome State Fault Refusal :=
  match i with
  | .rawParcel first frames => execRawParcel first frames s
  | .deckParcel h code => execDeckParcel h code s
  | .converterReport h body => execConverterReport h body s
  | .directiveForOtherUnit h body => done (takeDirective h body replyUnknown s)
  | .unknownDirective h body => done (takeDirective h body replyUnknown s)
  | .identify h => execIdentify h s
  | .status h => execStatus h s
  | .setAddress h a => execSetAddress h a s
  | .readSetting h id => execReadSetting h id s
  | .writeSetting h id v => execWriteSetting h id v s
  | .mapInsert h cls lanes start stop param => execMapInsert h cls lanes start stop param s
  | .mapDelete h id => execMapDelete h id s
  | .mapRead h n => execMapRead h n s
  | .mapClear h => execMapClear h s
  | .loadBegin h t => execLoadBegin h t s
  | .loadChunk h index words => execLoadChunk h index words s
  | .loadEnd h sum => execLoadEnd h sum s
  | .loadCancel h => execLoadCancel h s
  | .ackEvents h set => execAckEvents h set s
  | .snapshotCounters h c => execSnapshotCounters h c s
  | .profileSave h slot m => execProfileSave h slot m s
  | .profileErase h slot => execProfileErase h slot s
  | .profileRecall h slot => execProfileRecall h slot s
  | .resetEngine h => execResetEngine h s
  | .resetUnit h => execResetUnit h s
  | .powerOn _ => done s
  | .resetLineAssert => done s
  | .resetLineRelease _ => done s
  | .autoloadComplete _ => done s
  | .portGoesUp _ => done s
  | .portGoesDown _ => done s
  | .parcelCheckFailed _ _ => done s
  | .upstreamTransmitStart => done s
  | .upstreamForwardTransmitted => done s
  | .arbiterChoice => done s
  | .parcelTransmitted => done s
  | .loadTimerExpiry => done s
  | .profileSaveComplete => done s
  | .profileEraseComplete => done s
  | .parcelDroppedDuringStartUp _ _ => done s
  | .powerLoss => done s
  | .trimPulsePeriod => done s

/-- A byte sequence is delivered on a port: put to the receiver's tests in operation (R6), dropped without testing
before the autoload has ended (R8), and no parcel at all without power or in reset (R191). A sequence that passes
every test is handed on as the command it spells (log 5). -/
def deliver (p : Port) (bytes : List Byte) (s : State) : Host.Outcome State Fault Refusal :=
  if receiving s then
    match testParcel s.unit.unitAddress p bytes with
    | .failed t => done (dropParcel p t s)
    | .good x => handOn (commandOf s.unit.unitAddress x) s
  else done s

/-- PARCEL_CHECK_FAILED (R6, R8, R9). -/
def execParcelCheckFailed (p : Port) (bytes : List Byte) (s : State) : Host.Outcome State Fault Refusal :=
  deliver p bytes s

/-- PARCEL_DROPPED_DURING_START_UP (R8). -/
def execParcelDroppedDuringStartUp (p : Port) (bytes : List Byte) (s : State) : Host.Outcome State Fault Refusal :=
  deliver p bytes s

/-- DIRECTIVE_FOR_OTHER_UNIT (R12, R14): counted and offered upstream; one addressed here is received as what it spells
(log 5). -/
def execDirectiveForOtherUnit (h : Header) (body : List Byte) (s : State) : Host.Outcome State Fault Refusal :=
  if meantFor s.unit.unitAddress h.addr then deliver .D (Parcel.bytes ⟨kindDirective, h.addr, h.tag, body⟩) s
  else done (takeDirective h body replyUnknown s)

/-- UNKNOWN_DIRECTIVE (R162): answered UNKNOWN; one of a known kind is received as what it spells (log 5). -/
def execUnknownDirective (h : Header) (body : List Byte) (s : State) : Host.Outcome State Fault Refusal :=
  if (directiveLength (directiveKind body).toNat).isSome then
    deliver .D (Parcel.bytes ⟨kindDirective, h.addr, h.tag, body⟩) s
  else done (takeDirective h body replyUnknown s)

end Sys2Proof.Machine
end

