-- ==== Sys2Proof/Machine/Dispatch.lean ====
section
/-! DEFINITION. The dispatch of the commands: one arm per constructor, each one call of its meaning. -/

namespace Sys2Proof.Machine

/-- The effect of a command on everything but the queue of waiting commands. -/
def exec (i : Instr) (s : State) : Host.Outcome State Fault Refusal :=
  match i with
  | .powerOn straps => Sys2Proof.Machine.execPowerOn straps s
  | .resetLineAssert => Sys2Proof.Machine.execResetLineAssert s
  | .resetLineRelease straps => Sys2Proof.Machine.execResetLineRelease straps s
  | .autoloadComplete damaged => Sys2Proof.Machine.execAutoloadComplete damaged s
  | .portGoesUp p => Sys2Proof.Machine.execPortGoesUp p s
  | .portGoesDown p => Sys2Proof.Machine.execPortGoesDown p s
  | .parcelCheckFailed p bytes => Sys2Proof.Machine.execParcelCheckFailed p bytes s
  | .rawParcel first frames => Sys2Proof.Machine.execRawParcel first frames s
  | .deckParcel h code => Sys2Proof.Machine.execDeckParcel h code s
  | .converterReport h body => Sys2Proof.Machine.execConverterReport h body s
  | .directiveForOtherUnit h body => Sys2Proof.Machine.execDirectiveForOtherUnit h body s
  | .upstreamTransmitStart => Sys2Proof.Machine.execUpstreamTransmitStart s
  | .upstreamForwardTransmitted => Sys2Proof.Machine.execUpstreamForwardTransmitted s
  | .arbiterChoice => Sys2Proof.Machine.execArbiterChoice s
  | .parcelTransmitted => Sys2Proof.Machine.execParcelTransmitted s
  | .unknownDirective h body => Sys2Proof.Machine.execUnknownDirective h body s
  | .identify h => Sys2Proof.Machine.execIdentify h s
  | .status h => Sys2Proof.Machine.execStatus h s
  | .setAddress h address => Sys2Proof.Machine.execSetAddress h address s
  | .readSetting h id => Sys2Proof.Machine.execReadSetting h id s
  | .writeSetting h id value => Sys2Proof.Machine.execWriteSetting h id value s
  | .mapInsert h cls lanes start stop param => Sys2Proof.Machine.execMapInsert h cls lanes start stop param s
  | .mapDelete h id => Sys2Proof.Machine.execMapDelete h id s
  | .mapRead h ordinal => Sys2Proof.Machine.execMapRead h ordinal s
  | .mapClear h => Sys2Proof.Machine.execMapClear h s
  | .loadBegin h table => Sys2Proof.Machine.execLoadBegin h table s
  | .loadChunk h index words => Sys2Proof.Machine.execLoadChunk h index words s
  | .loadEnd h sum => Sys2Proof.Machine.execLoadEnd h sum s
  | .loadCancel h => Sys2Proof.Machine.execLoadCancel h s
  | .loadTimerExpiry => Sys2Proof.Machine.execLoadTimerExpiry s
  | .ackEvents h set => Sys2Proof.Machine.execAckEvents h set s
  | .snapshotCounters h clear => Sys2Proof.Machine.execSnapshotCounters h clear s
  | .profileSave h slot makeDefault => Sys2Proof.Machine.execProfileSave h slot makeDefault s
  | .profileSaveComplete => Sys2Proof.Machine.execProfileSaveComplete s
  | .profileErase h slot => Sys2Proof.Machine.execProfileErase h slot s
  | .profileEraseComplete => Sys2Proof.Machine.execProfileEraseComplete s
  | .profileRecall h slot => Sys2Proof.Machine.execProfileRecall h slot s
  | .resetEngine h => Sys2Proof.Machine.execResetEngine h s
  | .resetUnit h => Sys2Proof.Machine.execResetUnit h s
  | .parcelDroppedDuringStartUp p bytes => Sys2Proof.Machine.execParcelDroppedDuringStartUp p bytes s
  | .powerLoss => Sys2Proof.Machine.execPowerLoss s
  | .trimPulsePeriod => Sys2Proof.Machine.execTrimPulsePeriod s

end Sys2Proof.Machine
end

