-- ==== Sys2Proof/Safety.lean ====
section
/-! DEFINITION. What counts as a safe state: the bounds and shapes the spec says the K430's state keeps. Each is a
predicate of one part of the state, so that a claim can name the part it is about. -/

namespace Sys2Proof.Machine

/-! ### Queues (R14, R15, R138, R140, R142, R146, R147, R149, R159) -/

/-- Every queue holds at most what its rule allows, a partial CLEAN parcel fewer than 16 frames, and the notice queue
never two notices of one event kind. -/
def QueuesBounded (s : State) : Prop :=
  s.link.upstream.length ≤ 4 ∧ s.link.downstream.length ≤ 4 ∧
  (∀ d, (s.cleanQueues.get d).length ≤ 4) ∧ (∀ d, (s.partials.get d).length < 16) ∧
  s.log.length ≤ 64 ∧ (s.notices.map (·.kind)).Nodup ∧ s.cues.length ≤ 16 ∧ s.directives.length ≤ 4

/-! ### Raw intake and the lane history (R18, R22, R25, R30, R48, R120) -/

/-- The lane history stands in its canonical form. -/
def HistoryCanonical (s : State) : Prop := Memory.wf s.history

/-- A pass runs only under PLAY. While none runs, the expected position is none, both trackers are IDLE and every
walker is stopped; while one runs, the intake walker runs, and a side's walker runs exactly when its tracker is other
than IDLE. -/
def PassCoherent (s : State) : Prop :=
  (s.intake.running = true → s.intake.transport = .play) ∧
  (s.intake.running = false → s.intake.expected = none ∧ ∀ d, (s.trackers.get d).state = .idle) ∧
  s.map.intakeWalker.running = s.intake.running ∧
  ∀ d, (s.map.sideWalker.get d).running = sideActive s d

/-! ### Carrier tracker (R41, R56, R57, R105) -/

/-- Each side's applied step lies within the limits of the speed range in force, and is 1.0 while the tracker is IDLE
(R41). -/
def StepsInRange (s : State) : Prop :=
  ∀ d, ((s.trackers.get d).state = .idle → (s.trackers.get d).appliedStep = unity) ∧
    rangeLow s.settings.speedRange ≤ (s.trackers.get d).appliedStep ∧
    (s.trackers.get d).appliedStep ≤ rangeHigh s.settings.speedRange

/-- The skew average lies within ±2,048 and the skew in force within eight frames; so does every SKEW entry's
parameter (R34, R56, R57, R110). -/
def SkewBounded (s : State) : Prop :=
  (∀ e ∈ s.map.entries, e.cls = .skew → -134217728 ≤ e.param.toInt ∧ e.param.toInt ≤ 134217728) ∧
  ∀ d, (-2048 ≤ (s.trackers.get d).skewAverage ∧ (s.trackers.get d).skewAverage ≤ 2048) ∧
    (-134217728 ≤ (s.trackers.get d).skewInForce ∧ (s.trackers.get d).skewInForce ≤ 134217728)

/-! ### Correction map (R104, R106, R111) -/

/-- Two entries of one class that share a lane do not overlap (R111). -/
def MapEntry.apart (e f : MapEntry) : Prop :=
  e.cls = f.cls → e.lanes &&& f.lanes ≠ 0 → e.stop ≤ f.start ∨ f.stop ≤ e.start

/-- At most 512 entries in map order, each of a positive length with a lane, ids below 512 and all different, no two
in conflict, and no lane covered more than 4 times at any raw position. -/
def MapShaped (s : State) : Prop :=
  s.map.entries.length ≤ 512 ∧
  s.map.entries.Pairwise (fun e f => mapBefore e f = true) ∧
  (s.map.entries.map (·.id)).Nodup ∧
  (∀ e ∈ s.map.entries, e.id < 512 ∧ e.start < e.stop ∧ e.lanes ≠ 0) ∧
  s.map.entries.Pairwise MapEntry.apart ∧
  ∀ l x, coverCount s.map.entries l x ≤ 4

/-! ### Equalizer (R127) -/

/-- The delays of the equalizers have their fixed lengths and the fill counts their range. -/
def DelaysWhole (s : State) : Prop :=
  (∀ l, (s.eqLanes.get l).line.length = 63 ∧ (s.eqLanes.get l).records.length = 63) ∧
  ∀ d, (s.eqSides.get d).frames.length = 31 ∧ (s.eqSides.get d).fill ≤ 31

/-! ### Tables and settings (R75, R131, R169, R178, 9.4) -/

/-- The kind and the values of the 42 settings (9.4), in the order of their ids (12.5). -/
def settingRules : List SettingKind :=
  -- 0 to 3 lane enable, 4 and 5 side direction, 6 track window, 7 and 8 bias_hz, 9 speed range
  [.codes 2, .codes 2, .codes 2, .codes 2, .codes 2, .codes 2, .window, .numeric 20000 150000, .numeric 20000 150000,
    .speedRange,
    -- 10 slew, 11 lock_count, 12 hold_limit, 13 and 14 reference lane, 15 and 16 skew mode, 17 and 18 skew_cycles
    .numeric 1 4096, .numeric 1 64, .numeric 1 4096, .codes 3, .codes 3, .codes 2, .codes 2, .numeric (-8) 8,
    .numeric (-8) 8,
    -- 19 and 20 threshold, 21 N_in, 22 N_out, 23 and 24 twin, 25 and 26 repair mode
    .numeric 0 255, .numeric 0 255, .numeric 1 255, .numeric 1 255, .codes 2, .codes 2, .codes 4, .codes 4,
    -- 27 and 28 EQ set, 29 and 30 gain, 31 link error threshold, 32 load timeout, 33 notice mask
    .numeric 0 3, .numeric 0 3, .numeric 0 65535, .numeric 0 65535, .numeric 1 65535, .numeric 10 2550, .codes 4096,
    -- 34 to 37 indicator source, 38 pause on log high, 39 trim enable, 40 trim side, 41 trim deadband
    .codes 10, .codes 10, .codes 10, .codes 10, .codes 2, .codes 2, .codes 2, .numeric 0 65535]

/-- The code of an off/on setting (12.5). -/
def onCode (b : Bool) : Int := if b then 1 else 0

/-- The code of a side direction (12.5). -/
def reverseCode (d : Direction) : Int := if d = .reverse then 1 else 0

/-- The number of an indicator source, in the order of the table of R186 (12.5). -/
def sourceNumber (x : IndicatorSource) : Int :=
  ([.low, .high, .lockA, .lockB, .lockAll, .lockAny, .dropoutAny, .eventPending, .logHigh, .pauseRequest].idxOf x : Nat)

/-- The values a settings table holds, in the order of the setting ids, as READ SETTING reports them (R166, 12.5). -/
def settingValues (t : Settings) : List Int :=
  let side := fun (f : Side → Int) => [f .A, f .B]
  [onCode t.laneEnable.q0, onCode t.laneEnable.q1, onCode t.laneEnable.q2, onCode t.laneEnable.q3]
    ++ side (fun d => reverseCode (t.direction.get d)) ++ [(t.window : Int)] ++ side (fun d => (t.biasHz.get d : Int))
    ++ [(t.speedRange : Int), t.slew, t.lockCount, t.holdLimit]
    ++ side (fun d => ([RefLane.first, .second, .auto].idxOf (t.reference.get d) : Nat))
    ++ side (fun d => ([SkewMode.auto, .off].idxOf (t.skewMode.get d) : Nat))
    ++ side t.skewCycles.get ++ side (fun d => (t.threshold.get d : Int)) ++ [(t.nIn : Int), t.nOut]
    ++ side (fun d => onCode (t.twin.get d))
    ++ side (fun d => ([RepairMode.pass, .mute, .hold, .twin].idxOf (t.repairMode.get d) : Nat))
    ++ side (fun d => ((t.eqSet.get d).val : Int)) ++ side (fun d => (t.gain.get d : Int))
    ++ [(t.linkThreshold : Int), t.loadTimeout, t.noticeMask.toNat]
    ++ [sourceNumber t.indicator.q0, sourceNumber t.indicator.q1, sourceNumber t.indicator.q2, sourceNumber t.indicator.q3]
    ++ [onCode t.pauseOnLogHigh, onCode t.trimEnable, if t.trimSide = .B then 1 else 0, (t.trimDeadband : Int)]

/-- What READ SETTING reports beside them: the applied values of the pending settings, ids 0 to 6, and the table's own
values again (R24, R166). -/
def appliedValues (a : Applied) (t : Settings) : List Int :=
  [onCode a.laneEnable.q0, onCode a.laneEnable.q1, onCode a.laneEnable.q2, onCode a.laneEnable.q3,
    reverseCode a.direction.a, reverseCode a.direction.b, (a.window : Int)] ++ (settingValues t).drop 7

/-- A value a setting of a kind may hold (9.4). -/
def valueAllowed (k : SettingKind) (v : Int) : Prop :=
  match k with
  | .numeric lo hi => lo ≤ v ∧ v ≤ hi
  | .window => v = 64 ∨ v = 128 ∨ v = 256 ∨ v = 512
  | .speedRange => v = 2 ∨ v = 4 ∨ v = 8 ∨ v = 12
  | .codes n => 0 ≤ v ∧ v < n

/-- Every setting of a table holds a value of its range or list. -/
def Settings.allowed (t : Settings) : Prop := List.Forall₂ valueAllowed settingRules (settingValues t)

/-- The tables of a profile have their full lengths. -/
def Profile.whole (p : Profile) : Prop := p.kernel.length = 4096 ∧ ∀ n, (p.eqSets.get n).length = 32

/-- The profiles the store holds, in its slots and as the copy of a save in progress. -/
def ProfileStore.profiles (x : ProfileStore) : List Profile :=
  x.slots.toList.filterMap (·.profile) ++
    (match x.state with
     | .saving _ copy _ => [copy]
     | _ => [])

/-- Every setting in the table, in every slot and in a copy being saved is within its range. -/
def SettingsInRange (s : State) : Prop :=
  s.settings.allowed ∧ ∀ p ∈ s.store.profiles, p.settings.allowed

/-- The tables in use, the staging area and every stored profile's tables have their full lengths, and a load expects
at most 128 chunks. -/
def TablesWhole (s : State) : Prop :=
  s.kernel.length = 4096 ∧ (∀ n, (s.eqSets.get n).length = 32) ∧
  s.stager.staging.length = 4096 ∧ s.stager.expected ≤ 128 ∧
  ∀ p ∈ s.store.profiles, p.whole

/-! ### Unit, link and line values (R9, R11, R188, R189) -/

/-- The unit address is one a unit may have, the strap address one the pins give, the link-error counts, the trim
interval count and the duties within their ranges. -/
def ValuesInRange (s : State) : Prop :=
  s.unit.unitAddress.toNat ≤ 62 ∧ s.unit.strapAddress.toNat ≤ 7 ∧
  s.link.errors.u ≤ 65535 ∧ s.link.errors.d ≤ 65535 ∧
  s.lines.trimCount < 256 ∧ s.lines.duty ≤ 255 ∧ s.lines.lineDuty ≤ 255

/-! ### The receiver's tests (R6), in the terms claims use -/

/-- The one body length of each directive kind the K430 knows (12.4). -/
def directiveLengths : List (Nat × Nat) :=
  [(0x01, 1), (0x02, 1), (0x03, 2), (0x04, 2), (0x05, 6), (0x10, 15), (0x11, 3), (0x12, 3), (0x13, 1), (0x20, 2), (0x21, 130),
    (0x22, 5), (0x23, 1), (0x30, 3), (0x31, 2), (0x40, 3), (0x41, 2), (0x42, 2), (0x50, 1), (0x51, 1)]

/-- Whether a body has a length its kind allows: RAW 516 bytes, DECK 1, a DIRECTIVE meant for this unit with a known
directive kind that kind's length, and any other parcel a port receives 256 at most (R7, 12.1). -/
def lengthOk (unit : BitVec 6) (kind addr : Byte) (body : List Byte) : Bool :=
  if kind = 0x11 then body.length == 516
  else if kind = 0x12 then body.length == 1
  else if kind = 0x31 ∧ (addr.setWidth 6 = unit ∨ addr.setWidth 6 = 63#6) then
    match directiveLengths.lookup (body.headD 0).toNat with
    | some n => body.length == n
    | none => decide (body.length ≤ 256)
  else decide (body.length ≤ 256)

/-- Whether a delivered byte sequence fails one of the seven tests of R6, and whether the first it fails is the check. -/
def firstFailure (unit : BitVec 6) (p : Port) (bytes : List Byte) : Option Bool :=
  let content := bytes.take (bytes.length - 2)
  let body := content.drop 6
  let at' := fun i : Nat => (content[i]?).getD 0
  let received : List Byte :=
    match p with
    | .U => [0x11, 0x12, 0x13]
    | .D => [0x31]
  if bytes.length < 8 then some false
  else if natBE (bytes.drop (bytes.length - 2)) ≠ (checkWord content).toNat then some true
  else if at' 0 ≠ 0x5C then some false
  else if at' 1 ∉ ([0x11, 0x12, 0x13, 0x31, 0x41, 0x42, 0x43, 0x44, 0x45] : List Byte) then some false
  else if at' 1 ∉ received then some false
  else if natBE ((content.drop 4).take 2) ≠ body.length then some false
  else if lengthOk unit (at' 1) (at' 2) body = false then some false
  else none

/-! ### Directives (R8, R12, R159, R161), in the terms claims use -/

/-- A directive with this header is executed when it arrives: the part is in operation, the directive is for this unit
or broadcast, and fewer than 4 answers wait (R8, R12, R159). -/
def Executes (h : Header) (s : State) : Prop :=
  s.unit.phase = .running ∧ (addressIn h.addr = s.unit.unitAddress ∨ addressIn h.addr = 63#6) ∧ s.directives.length < 4

/-- The state once a good DIRECTIVE is counted and, unless it is for this unit alone, its copy has joined the upstream
forward queue or, at a full queue, been dropped and counted (R8, R12, R14). -/
def arrived (h : Header) (body : List Byte) (s : State) : State :=
  { s with
    counters :=
      { s.counters with
        receivedD := countUp s.counters.receivedD 1
        forwardedDropped :=
          if addressIn h.addr ≠ s.unit.unitAddress ∧ 4 ≤ s.link.upstream.length then countUp s.counters.forwardedDropped 1
          else s.counters.forwardedDropped }
    link :=
      { s.link with
        upstream :=
          if addressIn h.addr ≠ s.unit.unitAddress ∧ s.link.upstream.length < 4 then
            s.link.upstream ++ [⟨0x31, h.addr, h.tag, body⟩]
          else s.link.upstream } }

/-- The state once an executed directive's answer has joined the tail of the directive queue, with its kind and tag
echoed; an outcome other than OK and CLAMPED is counted as refused (R159, R161). -/
def answered (kind : Byte) (h : Header) (code : AnswerCode) (result : List Byte) (s : State) : State :=
  { s with
    counters :=
      { s.counters with
        directivesRefused :=
          if code = .ok ∨ code = .clamped then s.counters.directivesRefused else countUp s.counters.directivesRefused 1 }
    directives := s.directives ++ [⟨kind, h.tag, code, result⟩] }

/-! ### The checks of a map edit (R107, R110, R111), in the terms claims use -/

/-- The fields of a MAP INSERT obey every rule of R110: a known class (12.2), one lane at least and no other bit, a
positive length, and the class's own rule of lane set and parameter. -/
def FormOk (cls lanes : Byte) (start stop param : BitVec 32) : Prop :=
  lanes ≠ 0 ∧ lanes.toNat ≤ 15 ∧ start.toNat < stop.toNat ∧
  match cls.toNat with
  | 0 => param.toNat ≤ 255
  | 1 => param.toNat ≤ 3
  | 2 => (lanes = 3 ∨ lanes = 12) ∧ param.toNat ≤ 1
  | 3 => (lanes = 3 ∨ lanes = 12) ∧ -134217728 ≤ param.toInt ∧ param.toInt ≤ 134217728
  | 4 => param.toNat ≤ 65535
  | 5 => param.toNat ≤ 3
  | 6 => (lanes.toNat ≤ 3 ∨ lanes = 4 ∨ lanes = 8 ∨ lanes = 12) ∧ param.toNat ≤ 65535
  | _ => False

/-- A range meets the locked span (R107): a pass runs, the range starts below the intake position plus 4,096, and it ends
above the lowest output cursor of the sides at work, or above the intake cursor when neither is. -/
def Late (s : State) (start stop : Nat) : Prop :=
  s.intake.running = true ∧ start < s.intake.position + 4096 ∧
  ((∃ d, (s.trackers.get d).state ≠ .idle ∧ (s.resamplers.get d).cursor < stop) ∨
    ((∀ d, (s.trackers.get d).state = .idle) ∧ s.map.intakeWalker.cursor < stop))

/-- An entry of the class shares a lane with the range and overlaps it (R111). -/
def Conflict (s : State) (e : MapEntry) : Prop :=
  ∃ f ∈ s.map.entries, f.cls = e.cls ∧ f.lanes &&& e.lanes ≠ 0 ∧ e.start < f.stop ∧ f.start < e.stop

/-- Some lane is already covered by 4 entries at some raw position of the range (R111). -/
def Crowded (s : State) (e : MapEntry) : Prop :=
  ∃ l x, e.covers l x = true ∧ 4 ≤ coverCount s.map.entries l x

/-! ### The report arbiter (R152 to R155), in the terms claims use -/

/-- Some source other than the clean queues holds a parcel. -/
def NonCleanHolds (s : State) : Prop :=
  s.directives ≠ [] ∨ s.notices ≠ [] ∨ s.cues ≠ [] ∨ s.link.downstream ≠ [] ∨ s.log ≠ []

/-- Some clean queue holds a parcel. -/
def CleanHolds (s : State) : Prop := s.cleanQueues.a ≠ [] ∨ s.cleanQueues.b ≠ []

/-- A parcel the K430 originates, its address byte the unit address in force with the top two bits 0 (R13, R192). -/
def originated (s : State) (kind tag : Byte) (body : List Byte) : Parcel :=
  ⟨kind, BitVec.ofNat 8 s.unit.unitAddress.toNat, tag, body⟩

/-- The head of the highest-ranked source other than the clean queues, with the parcel it is sent as (R154, 12.3). -/
def rankedHead (s : State) : Option Sending :=
  let answer := s.directives.head?.map fun a =>
    (⟨.directive, originated s 0x42 a.tag ([a.kind, BitVec.ofNat 8 a.code.code] ++ a.result)⟩ : Sending)
  let notice := s.notices.head?.map fun n =>
    (⟨.notice, originated s 0x43 0 ([BitVec.ofNat 8 n.kind.code, n.pass] ++ bytesBE 4 n.position)⟩ : Sending)
  let cue := s.cues.head?.map fun c =>
    (⟨.cue, originated s 0x44 0 (bytesBE 2 c.id ++ bytesBE 2 c.label
      ++ [if c.isEnd then 1 else 0, if c.side = .A then 0 else 1] ++ bytesBE 4 c.frame)⟩ : Sending)
  let forwarded := s.link.downstream.head?.map fun x => (⟨.downstream, x⟩ : Sending)
  let damage := s.log.head?.map fun r =>
    (⟨.damage, originated s 0x45 0 ([BitVec.ofNat 8 r.lane.val,
      BitVec.ofNat 8 ((if r.gap then 1 else 0) + (if r.cut then 2 else 0)), BitVec.ofNat 8 r.lowest, r.pass]
      ++ bytesBE 4 r.start ++ bytesBE 4 r.stop)⟩ : Sending)
  [answer, notice, cue, forwarded, damage].findSome? id

/-- The head of a side's clean queue, with the parcel it is sent as. -/
def cleanHead (s : State) (d : Side) : Option Sending :=
  (s.cleanQueues.get d).head?.map fun p => ⟨.clean d, originated s 0x41 0 (cleanBody p)⟩

/-! ### The lane history after a parcel (R26, R28, R30), in the terms claims use -/

/-- A cleared entry, which is also what a frame filled for a gap leaves (R26, R30). -/
def clearedEntry : HistEntry := ⟨0, 0, 0, false, false, true⟩

/-- The 16 frames of a parcel stand in a lane's ring at their positions, but for the damage mark: sample, stamp, level and
carrier-valid as the parcel brought them, gap bit clear (R28, R30). -/
def FramesStand (first : Nat) (frames : Vector RawFrame 16) (l : Lane) (r : Ring) : Prop :=
  ∀ i : Fin 16,
    let x := (frames.get i).get l
    { ringRead r ((first + i.val) % 2048) with damaged := false } =
      ⟨x.sample.toInt, x.stamp, x.level.toNat, x.valid, false, false⟩

/-- Outside `count` positions from one on, every entry of a ring is as it was but for a damage mark set (R28, R88). -/
def ElseKept (first count : Nat) (before after : Ring) : Prop :=
  ∀ j < 2048, (∀ i < count, j ≠ (first + i) % 2048) →
    { ringRead after j with damaged := false } = { ringRead before j with damaged := false } ∧
    ((ringRead before j).damaged = true → (ringRead after j).damaged = true)

/-- The rings of a pass's first parcel: the lanes in use hold its 16 frames and cleared entries else, the other lanes
nothing but cleared entries (R21, R28, R30). -/
def HistoryBegins (use : Quad Bool) (first : Nat) (frames : Vector RawFrame 16) (h : Quad Ring) : Prop :=
  ∀ l, (use.get l = false → ∀ j < 2048, ringRead (h.get l) j = clearedEntry) ∧
    (use.get l = true → FramesStand first frames l (h.get l) ∧
      ∀ j < 2048, (∀ i < 16, j ≠ (first + i) % 2048) → ringRead (h.get l) j = clearedEntry)

/-! ### Production (R62), in the terms claims use -/

/-- The production condition of R62: the side is not exhausted, and two frames above the integer part of the read position
plus a positive skew lies at or below the intake position minus the lag. -/
def MayProduce (d : Side) (s : State) : Prop :=
  let r := s.resamplers.get d
  r.exhausted = false ∧
    (r.readPos + max (s.trackers.get d).skewInForce 0) / 16777216 + 2 ≤ (s.intake.position : Int) - r.lag

/-! ### The walker of a side (R116, R118, R119), in the terms claims use -/

/-- Whether the walker of a side considers an entry: an output class, and a lane of the side (R116). -/
def walkedOn (d : Side) (e : MapEntry) : Bool :=
  e.cls != .threshold && (e.lanes.getLsbD (firstLane d).val || e.lanes.getLsbD (secondLane d).val)

/-- The active sets of a side's walker are the output entries that cover its cursor, on the lanes of its side. -/
def SideWalkerExact (d : Side) (es : List MapEntry) (w : Walker) : Prop :=
  ∀ (l : Lane) (i : Nat), i ∈ w.active.get l ↔
    sideOf l = d ∧ ∃ e ∈ es, e.id = i ∧ e.cls ≠ .threshold ∧ e.covers l w.cursor = true

/-- An edge a walker takes: the entry, and whether it is its end. -/
abbrev Edge := MapEntry × Bool

/-- The edges of a side's walker at one raw position: ends in map order, then starts in map order (R118). -/
def edgesAt (d : Side) (es : List MapEntry) (x : Nat) : List Edge :=
  ((es.filter fun e => walkedOn d e && e.stop == x).map fun e => (e, true))
    ++ ((es.filter fun e => walkedOn d e && e.start == x).map fun e => (e, false))

/-- The edges at the `count` positions above a position, rising (R118). -/
def edgesAbove (d : Side) (es : List MapEntry) (x count : Nat) : List Edge :=
  (List.range count).flatMap fun k => edgesAt d es (x + 1 + k)

/-- What an edge does to the side's tracker: the start of a TIMEBASE entry forces a tracker that is not IDLE, and the end of
the entry named in the force condition lifts the force (R50 to R52). -/
def edgeOnTracker (t : Tracker) (x : Edge) : Tracker :=
  if x.1.cls ≠ .timebase then t
  else if x.2 then
    if t.force = .hold x.1.id then { t with force := .none, holdCount := 0 }
    else if t.force = .nominal x.1.id then { t with force := .none, validRun := 0 }
    else t
  else if t.state = .idle then t
  else if x.1.param = 0 then { t with state := .hold, force := .hold x.1.id }
  else { t with state := .free, force := .nominal x.1.id, validRun := 0 }

/-- The cue report of an edge: that of a NOTE entry, with the frame's number (R124). -/
def edgeCue (d : Side) (number : Nat) (x : Edge) : Option Cue :=
  if x.1.cls = .note then some ⟨x.1.id, x.1.param.toNat, x.2, d, number⟩ else none

/-- Edges taken by a side's walker: they act on the side's tracker in order, the cue reports join the cue queue below 16 and
are dropped and counted beyond, and nothing else changes but the walker (R52, R118, R124). -/
def EdgesTaken (d : Side) (edges : List Edge) (cues : List Cue) (s t : State) : Prop :=
  t = { s with
    map := { s.map with sideWalker := s.map.sideWalker.set d (t.map.sideWalker.get d) }
    trackers := s.trackers.set d (edges.foldl edgeOnTracker (s.trackers.get d))
    cues := (s.cues ++ cues).take 16
    counters := { s.counters with cuesDropped := countUp s.counters.cuesDropped (s.cues.length + cues.length - 16) } }

/-! ### Installation (R77, R131, R175), in the terms claims use -/

/-- The kernel and the EQ sets in use once the installation pending has been made (R175). -/
def tablesInstalled (s : State) : List Int × Quad (List Int) :=
  match s.stager.install with
  | .none => (s.kernel, s.eqSets)
  | .load .kernel => (s.stager.staging, s.eqSets)
  | .load (.eq n) => (s.kernel, s.eqSets.set n (s.stager.staging.take 32))
  | .recall n =>
    match (s.store.slots.get n).profile with
    | some p => (p.kernel, p.eqSets)
    | none => (s.kernel, s.eqSets)

/-- The installation pending is made, and none is pending after it (R175). -/
def installed (s : State) : State :=
  { s with
    kernel := (tablesInstalled s).1
    eqSets := (tablesInstalled s).2
    stager := { s.stager with install := .none } }

/-! ### The measurement of a side (R37, R38), in the terms claims use -/

/-- The count of a lane that qualifies: it is in use, its ring holds K+1 entries, and the clean bits of all but the oldest
are set (R37, R38). -/
def qualifiedCount (k : Nat) (used : Bool) (ring : List StampEntry) : Option Nat :=
  match ring with
  | [] => none
  | oldest :: rest =>
    if used = true ∧ rest.length = k ∧ ∀ e ∈ rest, e.clean = true then
      some ((((rest.getLast?.getD oldest).stamp.toNat : Int) - oldest.stamp.toNat) % 16777216).toNat
    else none

/-- The side's count D by its reference lane (R38). -/
def referenceCount (r : RefLane) (first second : Option Nat) : Option Nat :=
  match r, first, second with
  | .first, a, _ => a
  | .second, _, b => b
  | .auto, some a, some b => some ((a + b) / 2)
  | .auto, some a, none => some a
  | .auto, none, b => b

/-- The newest stamp of a ring. -/
def newestStamp (ring : List StampEntry) : BitVec 24 := (ring.getLast?.map (·.stamp)).getD 0

/-! ### Frames, boundaries and pass starts (R21, R22, R26, R28, R29), in the terms claims use -/

/-- The history entries of a frame as its parcel brought them (R28). -/
def frameEntries (f : RawFrame) : Quad HistEntry :=
  Quad.tabulate fun l => ⟨(f.get l).sample.toInt, (f.get l).stamp, (f.get l).level.toNat, (f.get l).valid, false, false⟩

/-- One frame: its entries are written on the lanes in use, the intake position and the intake walker move to it, and the
detectors of the lanes in use are presented with it in lane order (R28, R81). -/
def framePresented (pos : Nat) (f : Quad HistEntry) (s : State) : State :=
  let use := s.intake.applied.laneEnable
  let written : State :=
    { s with
      history := Quad.tabulate fun l =>
        if use.get l = true then ringWrite (s.history.get l) (pos % 2048) (f.get l) else s.history.get l
      intake := { s.intake with position := pos }
      map := { s.map with intakeWalker := intakeWalk s.map.entries pos s.map.intakeWalker } }
  ([0, 1, 2, 3] : List Lane).foldl (fun t l => if use.get l = true then presentFrame l pos t else t) written

/-- A parcel is written: its frames one after another, then its boundary: the update and the production of each side, the
update of a side before its production and in no other fixed order (log 10), and then the installation pending (R28, R29,
R42, R62, R77). -/
def ParcelWritten (first : Nat) (frames : List (Quad HistEntry)) (s t : State) : Prop :=
  ∃ (order : List SideWork) (n : Nat),
    order.Perm [.update .A, .produce .A, .update .B, .produce .B] ∧
    (∀ d, [SideWork.update d, SideWork.produce d].Sublist order) ∧
    let presented := frames.zipIdx.foldl (fun u x => framePresented (first + x.2) x.1 u) s
    t = installed (order.foldl
      (fun u w => match w with
        | .update d => updateTracker d u
        | .produce d => production d u) { presented with freeCount := n })

/-- `n` missing parcels from a position on are written, each of 16 cleared frames (R26). -/
def GapFilled (first : Nat) : Nat → State → State → Prop
  | 0, s, t => t = s
  | n + 1, s, t => ∃ u, ParcelWritten first (List.replicate 16 (Quad.fill clearedEntry)) s u ∧ GapFilled (first + 16) n u t

/-- One more parcel received on U (R8). -/
def receivedOnU (s : State) : State :=
  { s with counters := { s.counters with receivedU := countUp s.counters.receivedU 1 } }

/-- 16 more frames admitted on each lane in use (R19). -/
def framesCounted (s : State) : State :=
  { s with
    counters := { s.counters with
      framesAdmitted := Quad.tabulate fun l =>
        if s.intake.applied.laneEnable.get l = true then countUp (s.counters.framesAdmitted.get l) 16
        else s.counters.framesAdmitted.get l } }

/-- The parcel of a pass is taken: counted as admitted, written, and the expected position set (R19, R25, R28). -/
def ParcelTaken (first : Nat) (frames : Vector RawFrame 16) (s t : State) : Prop :=
  ∃ u, ParcelWritten first (frames.toList.map frameEntries) (framesCounted s) u ∧
    t = { u with intake := { u.intake with expected := if first = 4294967280 then none else some (first + 16) } }

/-- A side's tracker at the start of a pass: of a side enabled the values of R43, forced by the TIMEBASE entries that cover
the pass start position (R53); of another its own, with empty rings (R36). -/
def begunTracker (p : Nat) (s : State) (d : Side) : Tracker :=
  if s.settings.laneEnable.get (firstLane d) = true ∨ s.settings.laneEnable.get (secondLane d) = true then
    ((s.map.entries.filter fun e => walkedOn d e && decide (e.start ≤ p) && decide (p < e.stop)).map fun e => (e, false)).foldl
      edgeOnTracker ⟨.acquire, [], [], 16777216, 16777216, 0, 0, 0, 0, .none⟩
  else { s.trackers.get d with ringFirst := [], ringSecond := [] }

/-- The start of a pass at a position (R21, R22): the pending settings applied, the pass number moved on, the history
cleared, the intake walker sought; on each side enabled the tracker, the resampler (R61), the equalizer (R127), the partial
parcel (R138) and the walker (R119) set anew, and on each lane in use the detector (R80) and the repair stage (R93); the
trim loop started again (R188). The other sides and lanes keep theirs, and a detector the fields of its last run
(log 27). -/
def passBegun (p : Nat) (s : State) : State :=
  let use := s.settings.laneEnable
  let enabled := fun d : Side => use.get (firstLane d) || use.get (secondLane d)
  let resampler := fun d : Side =>
    if enabled d then (⟨((p : Int) + 1) * 16777216, 0, p, s.settings.window / 2, false⟩ : Resampler) else s.resamplers.get d
  let eqSide := fun d : Side => if enabled d then (⟨List.replicate 31 none, 0, false⟩ : EqSide) else s.eqSides.get d
  let part := fun d : Side => if enabled d then ([] : List CleanFrame) else s.partials.get d
  let walker := fun d : Side => (if enabled d then seekSide d p s else s).map.sideWalker.get d
  { s with
    intake := { s.intake with
      running := true
      passNumber := s.intake.passNumber + 1
      passStart := p
      applied := ⟨s.settings.laneEnable, s.settings.direction, s.settings.window⟩ }
    history := Quad.fill []
    trackers := ⟨begunTracker p s .A, begunTracker p s .B⟩
    resamplers := ⟨resampler .A, resampler .B⟩
    detectors := Quad.tabulate fun l =>
      if use.get l then { s.detectors.get l with state := .clear, count := 0 } else s.detectors.get l
    repairs := Quad.tabulate fun l => if use.get l then ⟨none, 32767, false⟩ else s.repairs.get l
    eqLanes := Quad.tabulate fun l =>
      if enabled (sideOf l) then ⟨List.replicate 63 0, List.replicate 63 none⟩ else s.eqLanes.get l
    eqSides := ⟨eqSide .A, eqSide .B⟩
    partials := ⟨part .A, part .B⟩
    map := { s.map with
      intakeWalker := intakeSeek s.map.entries p s.map.intakeWalker
      sideWalker := ⟨walker .A, walker .B⟩ }
    lines := { s.lines with trimCount := 0, trimSum := 0, allLocked := true } }

/-! ### What a flushed end puts out (R91, R136, R139), in the terms claims use -/

/-- The damage records of the runs a pass end cuts, in lane order: on each lane in use a run in DROPOUT or RECOVERING, ended
at the intake position, with closing CUT (R90, R91). -/
def cutRecords (s : State) : List DamageRecord :=
  allLanes.filterMap fun l =>
    let d := s.detectors.get l
    if s.intake.applied.laneEnable.get l = true ∧ (d.state = .dropout ∨ d.state = .recovering) then
      some ⟨l, d.start, s.intake.position, d.lowest, d.gap, true, s.intake.passNumber⟩
    else none

/-- How many frames stand inside a side's equalizer (R127, R128). -/
def framesInside (d : Side) (s : State) : Nat := min (s.eqSides.get d).fill 31

/-- A lane's part of frame `j` of the `n` a tail flush puts out: 32 - n + j zeros stand before the lane's samples, and the
record is that frame's own; the sample carries TAIL. A lane not in use gives 0 flagged LANE_OFF alone (R130, R135,
R136). -/
def flushedSample (s : State) (n j : Nat) (l : Lane) : SampleOut :=
  let q := s.eqLanes.get l
  match if s.intake.applied.laneEnable.get l = true then (q.records[n - 1 - j]?).join else none with
  | some r => laneOutput s.eqSets true { q with line := (List.replicate (32 - n + j) 0 ++ q.line).take 63 } r
  | none => ⟨0, FlagSet.laneOffOnly⟩

/-- The frames a tail flush puts out: those inside the equalizer, oldest first, with their own frame records (R136). -/
def flushedFrames (d : Side) (s : State) : List CleanFrame :=
  let n := framesInside d s
  (List.range n).filterMap fun j =>
    (((s.eqSides.get d).frames[n - 1 - j]?).join).map fun r =>
      ⟨flushedSample s n j (firstLane d), flushedSample s n j (secondLane d), r⟩

/-- The CLEAN parcel of some frames of a side, with the pass number, the direction and the tracker state in force (R139). -/
def parcelOfFrames (d : Side) (s : State) (frames : List CleanFrame) : CleanParcel where
  side := d
  pass := s.intake.passNumber
  firstNumber := (frames.head?.map (·.record.number)).getD 0
  rawSource := (frames.head?.map (·.record.rawSource)).getD 0
  reversed := decide (s.intake.applied.direction.get d = .reverse)
  tracker := (s.trackers.get d).state
  frames := frames

/-- The CLEAN parcels a flushed end of a side completes: the frames of the partial parcel and those of the tail flush, by
sixteens, the last parcel with what is left (R138, R139). -/
def flushedParcels (d : Side) (s : State) : List CleanParcel :=
  let frames := s.partials.get d ++ flushedFrames d s
  (List.range ((frames.length + 15) / 16)).map fun k => parcelOfFrames d s ((frames.drop (16 * k)).take 16)

/-! ### Profile slots (R178), in the terms claims use -/

/-- A slot holds a profile and its check word equals the CRC over the rest of the slot. -/
def Slot.Valid (x : Slot) (p : Profile) : Prop := x.profile = some p ∧ x.check = slotCheck p x.serial

/-! ### Output lines (R186, R191) -/

/-- Every indicator line stands at the level its source calls for, and low without power or in reset. -/
def LinesSettled (s : State) : Prop := ∀ line, s.lines.levels.get line = lineLevel s line

end Sys2Proof.Machine
end

