-- ==== Sys2Proof/WellFormed.lean ====
section
/-! DEFINITION. Which commands are well formed: the operands lie within what the parcel that spells the command
can carry (R7, 12.1, 12.4). The operands' widths are in their types; what is left are the lengths of the bodies and
the kind byte of a directive of an unknown kind. -/

namespace Sys2Proof

/-- The longest body of a CONVERTER REPORT, and of a DIRECTIVE that is not examined (R7). -/
def longestBody : Nat := 256

/-- Whether a command is well formed. -/
def Instr.wellFormed : Instr → Bool
  | .powerOn _ => true
  | .resetLineAssert => true
  | .resetLineRelease _ => true
  | .autoloadComplete _ => true
  | .portGoesUp _ => true
  | .portGoesDown _ => true
  | .parcelCheckFailed _ _ => true
  | .rawParcel _ _ => true
  | .deckParcel _ _ => true
  | .converterReport _ body => decide (body.length ≤ longestBody)
  | .directiveForOtherUnit _ body => decide (body.length ≤ longestBody)
  | .upstreamTransmitStart => true
  | .upstreamForwardTransmitted => true
  | .arbiterChoice => true
  | .parcelTransmitted => true
  | .unknownDirective _ body =>
    decide (body.length ≤ longestBody) && (Machine.directiveLength (Machine.directiveKind body).toNat).isNone
  | .identify _ => true
  | .status _ => true
  | .setAddress _ _ => true
  | .readSetting _ _ => true
  | .writeSetting _ _ _ => true
  | .mapInsert _ _ _ _ _ _ => true
  | .mapDelete _ _ => true
  | .mapRead _ _ => true
  | .mapClear _ => true
  | .loadBegin _ _ => true
  | .loadChunk _ _ _ => true
  | .loadEnd _ _ => true
  | .loadCancel _ => true
  | .loadTimerExpiry => true
  | .ackEvents _ _ => true
  | .snapshotCounters _ _ => true
  | .profileSave _ _ _ => true
  | .profileSaveComplete => true
  | .profileErase _ _ => true
  | .profileEraseComplete => true
  | .profileRecall _ _ => true
  | .resetEngine _ => true
  | .resetUnit _ => true
  | .parcelDroppedDuringStartUp _ _ => true
  | .powerLoss => true
  | .trimPulsePeriod => true

end Sys2Proof
end

