-- ==== Sys2Proof/Certificates/Slice0/Obligations.lean ====
section
/-! DEFINITION. The statements for the provers. Each docstring names the rules of spec/ its statement comes from, and the
log entry where it rests on a choice of the model. -/

open Sys2Proof Sys2Proof.Machine

/-! ### Steps -/

/-- A step with a command in front of the queue is that command's effect on the state with the queue's rest. -/
def Obligations.StepRunsTheFrontCommand : Prop :=
  ∀ (c : Instr) (rest : List Instr) (s : State), s.pending = c :: rest → step s = exec c { s with pending := rest }

/-- No command touches the queue of waiting commands: what follows the front command stays in order (the model's own
field, 95). -/
def Obligations.CommandsLeaveTheQueue : Prop :=
  ∀ (c : Instr) (s : State), ∃ t, exec c s = .next t ∧ t.pending = s.pending

/-- Rests on log 2: with no command waiting a step is one millisecond (00_scope 2.3). Without power or in reset nothing
passes but the lines; in start-up the count moves, and the sixth millisecond ends the autoload (R183); in operation the
load timer and the store's operation count, and each acts when its time has run out (R173, R179). A duty in force is
taken up by the trim line (R190). -/
def Obligations.IdleStepIsOneMillisecond : Prop :=
  ∀ s : State, s.pending = [] →
    ((s.unit.phase = .off ∨ s.unit.phase = .held) → step s = .next (settleLines s)) ∧
    (s.unit.phase = .startUp → s.unit.startUpMs < 5 →
      step s = .next (settleLines { s with
        unit := { s.unit with startUpMs := s.unit.startUpMs + 1 }
        lines := { s.lines with lineDuty := s.lines.duty } })) ∧
    (s.unit.phase = .startUp → 5 ≤ s.unit.startUpMs →
      ∃ t u, exec (.autoloadComplete 0) s = .next t ∧ exec .trimPulsePeriod t = .next u ∧ step s = .next u) ∧
    (s.unit.phase = .running → s.stager.timer = none → s.store.state = .idle →
      step s = .next (settleLines { s with lines := { s.lines with lineDuty := s.lines.duty } })) ∧
    (∀ c, s.unit.phase = .running → s.stager.timer = some c → c.elapsed + 1 < c.timeout → s.store.state = .idle →
      step s = .next (settleLines { s with
        stager := { s.stager with timer := some ⟨c.elapsed + 1, c.timeout⟩ }
        lines := { s.lines with lineDuty := s.lines.duty } })) ∧
    (∀ c, s.unit.phase = .running → s.stager.loading = true → s.stager.timer = some c → c.timeout ≤ c.elapsed + 1 →
      s.store.state = .idle →
      ∃ t u, exec .loadTimerExpiry s = .next t ∧ exec .trimPulsePeriod t = .next u ∧ step s = .next u) ∧
    (∀ n copy m, s.unit.phase = .running → s.stager.timer = none → s.store.state = .saving n copy m →
      (s.store.elapsed < 59 →
        step s = .next (settleLines { s with
          store := { s.store with elapsed := s.store.elapsed + 1 }
          lines := { s.lines with lineDuty := s.lines.duty } })) ∧
      (59 ≤ s.store.elapsed →
        ∃ t u, exec .profileSaveComplete s = .next t ∧ exec .trimPulsePeriod t = .next u ∧ step s = .next u)) ∧
    (∀ n, s.unit.phase = .running → s.stager.timer = none → s.store.state = .erasing n →
      (s.store.elapsed < 39 →
        step s = .next (settleLines { s with
          store := { s.store with elapsed := s.store.elapsed + 1 }
          lines := { s.lines with lineDuty := s.lines.duty } })) ∧
      (39 ≤ s.store.elapsed →
        ∃ t u, exec .profileEraseComplete s = .next t ∧ exec .trimPulsePeriod t = .next u ∧ step s = .next u))

/-- After every command each indicator line stands at the truth of its source in the state the command left, by the table
of R186, and low without power or in reset (R191; the moment is log 20's). -/
def Obligations.LinesFollowTheirSources : Prop :=
  ∀ (c : Instr) (s : State), ∃ t, exec c s = .next t ∧ ∀ line : Fin 4,
    (t.lines.levels.get line = true ↔
      (t.unit.phase = .startUp ∨ t.unit.phase = .running) ∧
      match t.settings.indicator.get line with
      | .low => False
      | .high => True
      | .lockA => t.trackers.a.state = .locked
      | .lockB => t.trackers.b.state = .locked
      | .lockAll =>
        (t.trackers.a.state ≠ .idle ∨ t.trackers.b.state ≠ .idle) ∧
        (t.trackers.a.state = .locked ∨ t.trackers.a.state = .idle) ∧
        (t.trackers.b.state = .locked ∨ t.trackers.b.state = .idle)
      | .lockAny => t.trackers.a.state = .locked ∨ t.trackers.b.state = .locked
      | .dropoutAny =>
        ∃ l : Lane, (t.detectors.get l).state = .dropout ∨ (t.detectors.get l).state = .recovering
      | .eventPending => ∃ k : EventKind, t.flags.getLsbD k.code = true ∧ t.settings.noticeMask.getLsbD k.code = true
      | .logHigh => 48 ≤ t.log.length
      | .pauseRequest => t.lines.pauseRequest = true)

/-! ### Power, reset, start-up (Chapter 10, R191) -/

/-- POWER_ON with the reset line released: every block at its power-on value, the cause POWER, both addresses from the
strap pins, each port at its alive signal, the store kept and its operation aborted (R1, R11, R183, R185; values the spec
gives none for before the autoload are log 8's). With the
reset line asserted the part is held, both ports DOWN and the trim line low (R191; the pins are log 19's). -/
def Obligations.PowerOnResetsTheUnit : Prop :=
  ∀ (straps : BitVec 3) (s : State),
    (s.unit.resetLine = false →
      exec (.powerOn straps) s = .next (settleLines { State.reset with
        unit := { State.reset.unit with
          phase := .startUp, resetCause := .power, straps := straps
          strapAddress := straps.setWidth 6, unitAddress := straps.setWidth 6 }
        link := { State.reset.link with
          alive := s.link.alive
          link := ⟨if s.link.alive.u then .up else .down, if s.link.alive.d then .up else .down⟩ }
        store := { s.store with state := .idle, elapsed := 0 }
        freeCount := s.freeCount
        pending := s.pending })) ∧
    (s.unit.resetLine = true →
      exec (.powerOn straps) s = .next (settleLines { State.reset with
        unit := { State.reset.unit with
          phase := .held, resetCause := .power, straps := straps, resetLine := true
          strapAddress := s.unit.strapAddress, unitAddress := s.unit.unitAddress }
        link := { State.reset.link with alive := s.link.alive }
        store := { s.store with state := .idle, elapsed := 0 }
        lines := { State.reset.lines with lineDuty := 0 }
        freeCount := s.freeCount
        pending := s.pending }))

/-- The reset line: asserted on a part with power it begins a unit reset and holds the part, both ports DOWN, the trim
line low; released, start-up begins with the cause LINE and the addresses of the strap pins (R1, R11, R183, R191; values
the spec gives none for before the autoload are log 8's). Released without having been asserted it changes only the pins'
levels (log 6). Without power only the pin's level changes, and POWER_LOSS leaves every block at its reset value with the
phase off (log 19). -/
def Obligations.ResetLineHoldsAndReleases : Prop :=
  ∀ (straps : BitVec 3) (s : State),
    (s.unit.phase ≠ .off →
      exec .resetLineAssert s = .next (settleLines { State.reset with
        unit := { State.reset.unit with
          phase := .held, resetCause := .line, straps := s.unit.straps, resetLine := true
          strapAddress := s.unit.strapAddress, unitAddress := s.unit.unitAddress }
        link := { State.reset.link with alive := s.link.alive }
        store := { s.store with state := .idle, elapsed := 0 }
        lines := { State.reset.lines with lineDuty := 0 }
        freeCount := s.freeCount
        pending := s.pending })) ∧
    (s.unit.phase = .off →
      exec .resetLineAssert s = .next (settleLines { s with unit := { s.unit with resetLine := true } })) ∧
    (s.unit.phase = .held →
      exec (.resetLineRelease straps) s = .next (settleLines { State.reset with
        unit := { State.reset.unit with
          phase := .startUp, resetCause := .line, straps := straps, resetLine := false
          strapAddress := straps.setWidth 6, unitAddress := straps.setWidth 6 }
        link := { State.reset.link with
          alive := s.link.alive
          link := ⟨if s.link.alive.u then .up else .down, if s.link.alive.d then .up else .down⟩ }
        store := { s.store with state := .idle, elapsed := 0 }
        freeCount := s.freeCount
        pending := s.pending })) ∧
    (s.unit.phase ≠ .held →
      exec (.resetLineRelease straps) s =
        .next (settleLines { s with unit := { s.unit with resetLine := false, straps := straps } })) ∧
    exec .powerLoss s = .next (settleLines { State.reset with
      unit := { State.reset.unit with
        phase := .off, resetCause := s.unit.resetCause, straps := s.unit.straps, resetLine := s.unit.resetLine
        strapAddress := s.unit.strapAddress, unitAddress := s.unit.unitAddress }
      link := { State.reset.link with alive := s.link.alive }
      store := { s.store with state := .idle, elapsed := 0 }
      lines := { State.reset.lines with lineDuty := 0 }
      freeCount := s.freeCount
      pending := s.pending })

/-- The reset values of the spec's tables (1.7, 2.7, 3.10, 4.8, 5.1, 6.6, 7.10, 8.6, 9.7, 11.6), where they give one: the
settings table at the factory values of 9.4, in the order of the setting ids, and both ports DOWN as any reset begins. -/
def Obligations.ResetLeavesTheStatedValues : Prop :=
  let s := State.reset
  (∀ d, s.trackers.get d = ⟨.idle, [], [], 16777216, 16777216, 0, 0, 0, 0, .none⟩) ∧
  (∀ d, s.resamplers.get d = ⟨0, 0, 0, 128, false⟩) ∧
  (∀ l, s.detectors.get l = ⟨.clear, 0, 0, 255, false⟩) ∧
  (∀ l, s.repairs.get l = ⟨none, 32767, false⟩) ∧
  (∀ l, s.eqLanes.get l = ⟨List.replicate 63 0, List.replicate 63 none⟩) ∧
  (∀ d, s.eqSides.get d = ⟨List.replicate 31 none, 0, false⟩) ∧
  (∀ d, s.partials.get d = [] ∧ s.cleanQueues.get d = []) ∧
  (∀ l p, historyAt s l p = ⟨0, 0, 0, false, false, true⟩) ∧
  s.map.entries = [] ∧ s.map.intakeWalker = ⟨0, false, none, Quad.fill []⟩ ∧
  (∀ d, s.map.sideWalker.get d = ⟨0, false, none, Quad.fill []⟩) ∧
  s.log = [] ∧ s.flags = 0 ∧ s.notices = [] ∧ s.cues = [] ∧ s.directives = [] ∧
  (∀ c ∈ s.counters.toList, c = 0) ∧ s.counters.toList.length = 47 ∧
  s.arbiter = ⟨.A, false, none⟩ ∧
  s.intake.transport = .stop ∧ s.intake.running = false ∧ s.intake.passNumber = 0 ∧ s.intake.passStart = 0 ∧
  s.intake.position = 0 ∧ s.intake.expected = none ∧
  s.stager = ⟨false, none, 0, 0, 0, none, List.replicate 4096 0, .none⟩ ∧
  settingValues s.settings =
    [1, 1, 1, 1, 0, 1, 256, 100000, 100000, 4, 512, 8, 256, 2, 2, 0, 0, 0, 0, 64, 64, 8, 32, 0, 0, 0, 0, 0, 0, 4096, 4096, 16,
      200, 4095, 2, 3, 6, 9, 0, 0, 0, 2048] ∧
  s.settings.noticeMask = 0xFFF ∧
  s.link.errors = ⟨0, 0⟩ ∧ s.link.upstream = [] ∧ s.link.downstream = [] ∧ s.link.sendingU = none ∧
  s.link.link = ⟨.down, .down⟩ ∧ (∀ phase cause u, (resetBlocks phase cause u).link.link = ⟨.down, .down⟩) ∧
  s.lines.pauseRequest = false ∧ s.lines.trimCount = 0 ∧ s.lines.trimSum = 0 ∧ s.lines.allLocked = true ∧
  s.lines.duty = 128 ∧ s.store.state = .idle ∧ s.store.header = 0

/-- The end of the autoload (R183, R184, R168, R24): the profile of the table's row is written into the settings table,
its tables are in use, the pending settings are applied, the serial number is slot 0's when slot 0 is valid, and a
failed check has raised PROFILE_FAULT. Slot n is valid when it holds a profile, its check word equals the CRC over the
rest of the slot, and its contents have not been lost or damaged (R178); the operand that names the damaged slots is
log 12's. -/
def Obligations.AutoloadFollowsTheTable : Prop :=
  ∀ (damaged : BitVec 4) (s : State), s.unit.phase = .startUp →
    ∃ t, exec (.autoloadComplete damaged) s = .next t ∧
      let valid := fun n : Fin 4 =>
        damaged.getLsbD n.val = false ∧ ∃ p, Slot.Valid (s.store.slots.get n) p
      let loads := fun (p : Option Profile) (outcome : AutoloadOutcome) (fault : Prop) =>
        some ⟨t.settings, t.kernel, t.eqSets⟩ = p ∧ t.unit.autoload = outcome ∧
        (fault → t.flags.getLsbD 8 = true) ∧ (¬ fault → t.flags.getLsbD 8 = s.flags.getLsbD 8)
      (s.store.header ≠ 0 → valid s.store.header → valid 0 → loads (s.store.slots.get s.store.header).profile .default False) ∧
      (s.store.header ≠ 0 → valid s.store.header → ¬ valid 0 →
        loads (s.store.slots.get s.store.header).profile .default True) ∧
      (s.store.header ≠ 0 → ¬ valid s.store.header → valid 0 → loads (s.store.slots.get 0).profile .factory True) ∧
      (s.store.header = 0 → valid 0 → loads (s.store.slots.get 0).profile .default False) ∧
      (¬ valid s.store.header → ¬ valid 0 → loads (some factoryProfile) .builtin True) ∧
      t.unit = { s.unit with
        phase := .running, startUpMs := 6, autoload := t.unit.autoload, serial := t.unit.serial } ∧
      (valid 0 → t.unit.serial = (s.store.slots.get 0).serial.getD 0) ∧ (¬ valid 0 → t.unit.serial = 0) ∧
      t.intake = { s.intake with applied := ⟨t.settings.laneEnable, t.settings.direction, t.settings.window⟩ } ∧
      t.store.header = s.store.header ∧ t.store.state = s.store.state ∧
      (∀ n : Fin 4, damaged.getLsbD n.val = false → t.store.slots.get n = s.store.slots.get n) ∧
      (∀ n : Fin 4, damaged.getLsbD n.val = true → ∀ p, ¬ Slot.Valid (t.store.slots.get n) p) ∧
      t = { s with
        unit := t.unit, settings := t.settings, kernel := t.kernel, eqSets := t.eqSets, intake := t.intake
        store := t.store, flags := t.flags, notices := t.notices, trackers := t.trackers, lines := t.lines }

/-- Before the autoload has ended, in reset and without power every parcel and every delivered byte sequence is dropped
without testing: nothing is counted, forwarded or changed (R8, R183, R191). -/
def Obligations.NothingIsReceivedBeforeOperation : Prop :=
  ∀ (s : State), s.unit.phase ≠ .running →
    (∀ p bytes, exec (.parcelDroppedDuringStartUp p bytes) s = .next (settleLines s)) ∧
    (∀ p bytes, exec (.parcelCheckFailed p bytes) s = .next (settleLines s)) ∧
    (∀ c : Instr, (parcelOf c).isSome = true → exec c s = .next (settleLines s))

/-! ### The parcel link (Chapters 1 and 12) -/

/-- The seven tests, in order: a sequence is dropped and counted under the first test it fails, as a check error under the
second and as malformed under any other, and the port's link-error count rises, up to 65,535; at the threshold
LINK_DEGRADED is raised (R4 to R9, R146). The tests are put in operation (R8), and the last takes the one length that
12.1 and 12.4 give each kind. -/
def Obligations.DroppedParcelsAreCountedUnderTheFirstTest : Prop :=
  ∀ (p : Port) (bytes : List Byte) (s : State), s.unit.phase = .running →
    ∀ isCheck, firstFailure s.unit.unitAddress p bytes = some isCheck →
      let n := min (s.link.errors.get p + 1) 65535
      let degraded := s.settings.linkThreshold ≤ n
      ∃ t, exec (.parcelCheckFailed p bytes) s = .next t ∧
        t = { s with
          link := { s.link with errors := s.link.errors.set p n }
          counters := { s.counters with
            checkErrorsU :=
              if isCheck = true ∧ p = .U then countUp s.counters.checkErrorsU 1 else s.counters.checkErrorsU
            checkErrorsD :=
              if isCheck = true ∧ p = .D then countUp s.counters.checkErrorsD 1 else s.counters.checkErrorsD
            malformed := if isCheck = true then s.counters.malformed else countUp s.counters.malformed 1 }
          flags := if degraded then s.flags ||| 0x040 else s.flags
          notices := t.notices
          lines := { s.lines with levels := t.lines.levels } } ∧
        (t.notices = s.notices ∨ degraded ∧ s.flags.getLsbD 6 = false ∧
          t.notices = s.notices ++ [⟨.linkDegraded, s.intake.passNumber, s.intake.position⟩])

/-- Every well-formed command a parcel spells is read back from the bytes of its parcel: the receiver finds the parcel good
and the parcel spells the command (R3 to R7, R12, 12.1 to 12.4, R192, R193; the commands' operands, and the RAW header
bytes written 0, are log 1's). A directive that another unit is meant
for spells itself only at a unit it is not meant for, and every other directive only at a unit it is meant for. -/
def Obligations.ParcelsSpellTheirCommands : Prop :=
  ∀ (unit : BitVec 6) (c : Instr) (x : Parcel), c.wellFormed = true → parcelOf c = some x →
    (x.kind = 0x31 → (meantFor unit x.addr = true ↔ ∀ h body, c ≠ .directiveForOtherUnit h body)) →
    testParcel unit (if x.kind = 0x31 then .D else .U) x.bytes = .good x ∧ commandOf unit x = c

/-- PORT_GOES_UP and PORT_GOES_DOWN (R1, R2, R14, R32, R156, R177): a rise raises nothing; a fall of a port that was UP
raises PORT_DOWN and cuts off a transmission, whose parcel stays at the head of its source; Port U's fall ends a running
pass with a flushed end, made from the state after the event and the cut (log 14), and takes nothing out of any queue;
Port D's fall makes the unit reset when the answer to
RESET UNIT waits (values before the autoload are log 8's). -/
def Obligations.PortsFollowTheirAliveSignals : Prop :=
  ∀ (s : State),
    (∀ p, s.unit.phase = .startUp ∨ s.unit.phase = .running →
      exec (.portGoesUp p) s = .next (settleLines { s with
        link := { s.link with alive := s.link.alive.set p true, link := s.link.link.set p .up } })) ∧
    (∀ p, s.unit.phase = .off ∨ s.unit.phase = .held →
      exec (.portGoesUp p) s = .next (settleLines { s with link := { s.link with alive := s.link.alive.set p true } })) ∧
    (∀ p, s.link.link.get p = .down →
      exec (.portGoesDown p) s = .next (settleLines { s with link := { s.link with alive := s.link.alive.set p false } })) ∧
    (s.link.link.u = .up → ∃ t, exec (.portGoesDown .U) s = .next t ∧
      t.link = { s.link with alive := s.link.alive.set .U false, link := s.link.link.set .U .down, sendingU := none } ∧
      t.flags.getLsbD 10 = true ∧ t.intake.running = false ∧ t.intake.transport = s.intake.transport ∧
      t.intake.passNumber = s.intake.passNumber ∧ t.intake.position = s.intake.position ∧
      t.directives = s.directives ∧ t.arbiter = s.arbiter ∧ t.settings = s.settings ∧ t.store = s.store ∧
      t.unit = s.unit ∧ t.map.entries = s.map.entries ∧
      s.log <+: t.log ∧ s.notices <+: t.notices ∧ t.cues = s.cues ∧ (∀ d, s.cleanQueues.get d <+: t.cleanQueues.get d) ∧
      (s.intake.running = true →
        t = settleLines (flushedEnd (raise .portDown { s with link := t.link }))) ∧
      (s.intake.running = false →
        t = { s with
          link := t.link, flags := s.flags ||| 0x400, notices := t.notices
          lines := { s.lines with levels := t.lines.levels } })) ∧
    (s.link.link.d = .up → (∀ a ∈ s.directives, a.kind ≠ 0x51) → ∃ t, exec (.portGoesDown .D) s = .next t ∧
      t = { s with
        link := { s.link with alive := s.link.alive.set .D false, link := s.link.link.set .D .down }
        arbiter := { s.arbiter with sending := none }
        flags := s.flags ||| 0x400, notices := t.notices
        lines := { s.lines with levels := t.lines.levels } }) ∧
    (s.link.link.d = .up → (∃ a ∈ s.directives, a.kind = 0x51) → s.unit.resetLine = false →
      exec (.portGoesDown .D) s = .next (settleLines { State.reset with
        unit := { State.reset.unit with
          phase := .startUp, resetCause := .directive, straps := s.unit.straps
          strapAddress := s.unit.straps.setWidth 6, unitAddress := s.unit.straps.setWidth 6 }
        link := { State.reset.link with
          alive := s.link.alive.set .D false
          link := ⟨if s.link.alive.u then .up else .down, .down⟩ }
        store := { s.store with state := .idle, elapsed := 0 }
        freeCount := s.freeCount
        pending := s.pending }))

/-- CONVERTER_REPORT is counted as received on U and offered to the downstream forward queue; DIRECTIVE_FOR_OTHER_UNIT is
counted as received on D and offered to the upstream one, as received and without being executed; a full queue drops and
counts the parcel; nothing else changes (R3, R7, R8, R12, R14 to R16). Port U's transmitter begins with the upstream
queue's head while Port U is UP and nothing is being sent; the head stays until its transmission completes, and then
leaves (R2, R14). -/
def Obligations.ForwardedParcelsJoinTheirQueuesInOrder : Prop :=
  (∀ (h : Header) (body : List Byte) (s : State), s.unit.phase = .running →
     exec (.converterReport h body) s = .next (settleLines { s with
       counters := { s.counters with
         receivedU := countUp s.counters.receivedU 1
         forwardedDropped :=
           if s.link.downstream.length < 4 then s.counters.forwardedDropped else countUp s.counters.forwardedDropped 1 }
       link := { s.link with
         downstream :=
           if s.link.downstream.length < 4 then s.link.downstream ++ [⟨0x13, h.addr, h.tag, body⟩] else s.link.downstream } })) ∧
  (∀ (h : Header) (body : List Byte) (s : State), s.unit.phase = .running →
     addressIn h.addr ≠ s.unit.unitAddress → addressIn h.addr ≠ 63#6 →
     exec (.directiveForOtherUnit h body) s = .next (settleLines { s with
       counters := { s.counters with
         receivedD := countUp s.counters.receivedD 1
         forwardedDropped :=
           if s.link.upstream.length < 4 then s.counters.forwardedDropped else countUp s.counters.forwardedDropped 1 }
       link := { s.link with
         upstream :=
           if s.link.upstream.length < 4 then s.link.upstream ++ [⟨0x31, h.addr, h.tag, body⟩] else s.link.upstream } })) ∧
  ∀ (x : Parcel) (rest : List Parcel) (s : State), s.link.upstream = x :: rest →
    (s.link.link.u = .up → s.link.sendingU = none →
      exec .upstreamTransmitStart s = .next (settleLines { s with link := { s.link with sendingU := some x } })) ∧
    (s.link.link.u = .down ∨ s.link.sendingU ≠ none → exec .upstreamTransmitStart s = .next (settleLines s)) ∧
    (s.link.sendingU ≠ none →
      exec .upstreamForwardTransmitted s =
        .next (settleLines { s with link := { s.link with sendingU := none, upstream := rest } }))

/-! ### The report arbiter (8.5) and the parcels it sends (12.3) -/

/-- ARBITER_CHOICE by the three steps of R153: owed and a non-clean parcel waiting, the highest-ranked non-clean head;
else a clean head, by R155; else the highest-ranked non-clean head (R152 to R154). The parcel is fixed as its
transmission begins, with the unit address then in force (R13, R192). With Port D DOWN, a parcel in transmission, or
nothing to send, no choice is made. -/
def Obligations.ArbiterChoosesByTheThreeSteps : Prop :=
  ∀ s : State,
    (s.link.link.d = .down ∨ s.arbiter.sending ≠ none → exec .arbiterChoice s = .next (settleLines s)) ∧
    (s.link.link.d = .up → s.arbiter.sending = none →
      (¬ NonCleanHolds s → ¬ CleanHolds s → exec .arbiterChoice s = .next (settleLines s)) ∧
      ((s.arbiter.owed = true ∧ NonCleanHolds s) ∨ (¬ CleanHolds s ∧ NonCleanHolds s) →
        (rankedHead s).isSome = true ∧
        exec .arbiterChoice s = .next (settleLines { s with arbiter := { s.arbiter with sending := rankedHead s } })) ∧
      ((s.arbiter.owed = false ∨ ¬ NonCleanHolds s) → CleanHolds s →
        exec .arbiterChoice s = .next (settleLines { s with arbiter := { s.arbiter with
          sending :=
            if s.cleanQueues.get s.arbiter.nextSide ≠ [] then cleanHead s s.arbiter.nextSide
            else cleanHead s s.arbiter.nextSide.other } })))

/-- The clean queue is chosen by the next side, and the transmission of a CLEAN parcel of side X makes the next side the
one that is not X (R155). -/
def Obligations.CleanQueuesAreChosenByTheNextSide : Prop :=
  ∀ s : State,
    (s.link.link.d = .up → s.arbiter.sending = none → (s.arbiter.owed = false ∨ ¬ NonCleanHolds s) →
      ∀ d p rest, s.cleanQueues.get d = p :: rest → (s.arbiter.nextSide = d ∨ s.cleanQueues.get d.other = []) →
        exec .arbiterChoice s = .next (settleLines { s with arbiter := { s.arbiter with
          sending := some ⟨.clean d, originated s 0x41 0 (cleanBody p)⟩ } })) ∧
    (∀ d x, s.arbiter.sending = some ⟨.clean d, x⟩ →
      ∃ t, exec .parcelTransmitted s = .next t ∧ t.arbiter.nextSide = d.other ∧ t.arbiter.sending = none ∧
        t.cleanQueues.get d = (s.cleanQueues.get d).tail ∧ t.cleanQueues.get d.other = s.cleanQueues.get d.other ∧
        (t.cleanQueues.get d.other ≠ [] → t.link.link.d = .up → ¬ NonCleanHolds t →
          ∃ u y, exec .arbiterChoice t = .next u ∧ u.arbiter.sending = some ⟨.clean d.other, y⟩))

/-- PARCEL_TRANSMITTED: the head leaves its source and nothing else does; the arbiter owes a non-clean parcel after a CLEAN
one and none after another; a damage record that leaves the log at 16 releases the pause request (R152 to R155, R144,
R147, R149, R160, R187). With nothing in transmission nothing happens (log 6). -/
def Obligations.TransmittedHeadsLeaveTheirSources : Prop :=
  ∀ s : State,
    (s.arbiter.sending = none → exec .parcelTransmitted s = .next (settleLines s)) ∧
    (∀ d x, s.arbiter.sending = some ⟨.clean d, x⟩ →
      exec .parcelTransmitted s = .next (settleLines { s with
        cleanQueues := s.cleanQueues.set d (s.cleanQueues.get d).tail
        arbiter := ⟨d.other, true, none⟩ })) ∧
    (∀ x a rest, s.arbiter.sending = some ⟨.directive, x⟩ → s.directives = a :: rest → a.kind ≠ 0x51 →
      exec .parcelTransmitted s = .next (settleLines { s with
        directives := rest, arbiter := ⟨s.arbiter.nextSide, false, none⟩ })) ∧
    (∀ x n rest, s.arbiter.sending = some ⟨.notice, x⟩ → s.notices = n :: rest →
      exec .parcelTransmitted s = .next (settleLines { s with
        notices := rest, arbiter := ⟨s.arbiter.nextSide, false, none⟩ })) ∧
    (∀ x c rest, s.arbiter.sending = some ⟨.cue, x⟩ → s.cues = c :: rest →
      exec .parcelTransmitted s = .next (settleLines { s with
        cues := rest, arbiter := ⟨s.arbiter.nextSide, false, none⟩ })) ∧
    (∀ x y rest, s.arbiter.sending = some ⟨.downstream, x⟩ → s.link.downstream = y :: rest →
      exec .parcelTransmitted s = .next (settleLines { s with
        link := { s.link with downstream := rest }, arbiter := ⟨s.arbiter.nextSide, false, none⟩ })) ∧
    (∀ x r rest, s.arbiter.sending = some ⟨.damage, x⟩ → s.log = r :: rest →
      exec .parcelTransmitted s = .next (settleLines { s with
        log := rest
        lines := { s.lines with pauseRequest := if rest.length = 16 then false else s.lines.pauseRequest }
        arbiter := ⟨s.arbiter.nextSide, false, none⟩ }))

/-! ### The raw stream (Chapter 2) -/

/-- DECK_PARCEL takes the transport state from its code, is counted and offered downstream; a code that repeats the state
held, or is none of the four, changes nothing else; the fall of Port U keeps the state, every reset makes it STOP, and the
engine reset keeps it (R17; the four codes are 12.2's). -/
def Obligations.DeckParcelsSetTheTransportState : Prop :=
  ∀ s : State,
    (∀ h code, s.unit.phase = .running → ∃ t, exec (.deckParcel h code) s = .next t ∧
      t.intake.transport = (match code.toNat with
        | 0 => .stop
        | 1 => .play
        | 2 => .spool
        | 3 => .pause
        | _ => s.intake.transport) ∧
      t.counters.receivedU = countUp s.counters.receivedU 1 ∧
      t.link = { s.link with
        downstream :=
          if s.link.downstream.length < 4 then s.link.downstream ++ [⟨0x12, h.addr, h.tag, [code]⟩]
          else s.link.downstream } ∧
      (t.intake.transport = s.intake.transport →
        t = { s with
          counters := { s.counters with
            receivedU := t.counters.receivedU
            forwardedDropped :=
              if s.link.downstream.length < 4 then s.counters.forwardedDropped
              else countUp s.counters.forwardedDropped 1 }
          link := t.link
          lines := { s.lines with levels := t.lines.levels } })) ∧
    (∀ t, exec (.portGoesDown .U) s = .next t → t.intake.transport = s.intake.transport) ∧
    (∀ p t, exec (.portGoesUp p) s = .next t → t.intake.transport = s.intake.transport) ∧
    (∀ straps t, exec (.powerOn straps) s = .next t → t.intake.transport = .stop) ∧
    (∀ t, s.unit.phase ≠ .off → exec .resetLineAssert s = .next t → t.intake.transport = .stop) ∧
    (∀ x a rest t, s.arbiter.sending = some ⟨.directive, x⟩ → s.directives = a :: rest → a.kind = 0x51 →
      exec .parcelTransmitted s = .next t → t.intake.transport = .stop) ∧
    (∀ cause, (unitReset cause s).intake.transport = .stop) ∧
    (∀ h t, exec (.resetEngine h) s = .next t → t.intake.transport = s.intake.transport)

/-- A change of the transport state from PLAY ends a running pass with a flushed end: pass state IDLE, expected position
none; both trackers IDLE at 1.0 with their counts 0 and forces none, their targets and skews kept; the detectors of the
lanes in use CLEAR, their open runs recorded CUT in lane order (R91); walkers stopped with their active sets empty; the
position, pass number and lane history stay (R18, R31, R48, R120). Each side at work takes in 31 empty frames: the frames
still inside its equalizer leave it flagged TAIL (R136) and fill CLEAN parcels by sixteens, the last with what is left, with
the pass number and the tracker state from before IDLE (R139); the parcels join the clean queue or are counted (R140). An
installation pending is made, its tables replaced (R77, R175). -/
def Obligations.LeavingPlayEndsThePassFlushed : Prop :=
  ∀ (h : Header) (code : Byte) (s : State), s.unit.phase = .running → s.intake.transport = .play →
    s.intake.running = true → (code = 0 ∨ code = 2 ∨ code = 3) → s.map.intakeWalker.running = true →
    (∀ d, (s.map.sideWalker.get d).running = sideActive s d) →
    ∃ t, exec (.deckParcel h code) s = .next t ∧
      t.intake = { s.intake with transport := t.intake.transport, running := false, expected := none } ∧
      (∀ d, (s.trackers.get d).state ≠ .idle →
        t.trackers.get d = { s.trackers.get d with
          state := .idle, appliedStep := 16777216, holdCount := 0, validRun := 0, force := .none }) ∧
      (∀ d, (s.trackers.get d).state = .idle → t.trackers.get d = s.trackers.get d) ∧
      (∀ l, s.intake.applied.laneEnable.get l = true → (t.detectors.get l).state = .clear) ∧
      (∀ l, s.intake.applied.laneEnable.get l = false → t.detectors.get l = s.detectors.get l) ∧
      (∀ d, (s.trackers.get d).state ≠ .idle → t.partials.get d = [] ∧
        t.eqSides.get d = ⟨List.replicate 31 none, max (s.eqSides.get d).fill 31, false⟩) ∧
      (∀ l, t.eqLanes.get l =
        if s.intake.applied.laneEnable.get l = true ∧ (s.trackers.get (sideOf l)).state ≠ .idle then
          ⟨(List.replicate 31 0 ++ (s.eqLanes.get l).line).take 63,
            (List.replicate 31 none ++ (s.eqLanes.get l).records).take 63⟩
        else s.eqLanes.get l) ∧
      (QueuesBounded s →
        (∀ d, (s.trackers.get d).state ≠ .idle →
          let parcels := flushedParcels d s
          (s.link.link.d = .up →
            t.cleanQueues.get d = (s.cleanQueues.get d ++ parcels).take 4 ∧
            t.counters.cleanDiscarded.get d =
              countUp (s.counters.cleanDiscarded.get d) ((s.cleanQueues.get d).length + parcels.length - 4)) ∧
          (s.link.link.d = .down →
            t.cleanQueues.get d = s.cleanQueues.get d ∧
            t.counters.cleanDiscarded.get d = countUp (s.counters.cleanDiscarded.get d) parcels.length)) ∧
        t.log = (s.log ++ cutRecords s).take 64 ∧
        t.counters.unloggedDropouts =
          countUp s.counters.unloggedDropouts (s.log.length + (cutRecords s).length - 64) ∧
        ∀ l, t.counters.dropoutsClosed.get l =
          if ∃ r ∈ cutRecords s, r.lane = l then countUp (s.counters.dropoutsClosed.get l) 1
          else s.counters.dropoutsClosed.get l) ∧
      (∀ d, (s.trackers.get d).state = .idle →
        t.partials.get d = s.partials.get d ∧ t.cleanQueues.get d = s.cleanQueues.get d ∧
        t.eqSides.get d = s.eqSides.get d ∧
        t.counters.cleanDiscarded.get d = s.counters.cleanDiscarded.get d) ∧
      t.map.intakeWalker = { s.map.intakeWalker with running := false, active := Quad.fill [] } ∧
      (∀ d, (s.trackers.get d).state ≠ .idle →
        t.map.sideWalker.get d = { s.map.sideWalker.get d with running := false, active := Quad.fill [] }) ∧
      t.history = s.history ∧ t.resamplers = s.resamplers ∧ t.repairs = s.repairs ∧ t.cues = s.cues ∧
      t.unit = s.unit ∧ t.settings = s.settings ∧ t.store = s.store ∧ t.directives = s.directives ∧
      t.arbiter = s.arbiter ∧ t.map.entries = s.map.entries ∧
      t.kernel = (tablesInstalled s).1 ∧ t.eqSets = (tablesInstalled s).2 ∧ t.stager = { s.stager with install := .none }

/-- RAW_PARCEL outside PLAY is counted and discarded; one whose first position lies above 4,294,967,280 is a break that
writes nothing and ends a running pass, so that no pass runs after it (R8, R19, R20). -/
def Obligations.RefusedRawParcelsWriteNothing : Prop :=
  ∀ (first : BitVec 32) (frames : Vector RawFrame 16) (s : State), s.unit.phase = .running →
    (s.intake.transport ≠ .play →
      exec (.rawParcel first frames) s = .next (settleLines { s with
        counters := { s.counters with
          receivedU := countUp s.counters.receivedU 1, rawDiscarded := countUp s.counters.rawDiscarded 1 } })) ∧
    (s.intake.transport = .play → 4294967280 < first.toNat →
      ∃ t, exec (.rawParcel first frames) s = .next t ∧ t.history = s.history ∧ t.intake.running = false ∧
        t.intake.position = s.intake.position ∧ t.intake.passNumber = s.intake.passNumber ∧
        t.intake.transport = .play ∧ t.counters.streamBreaks = countUp s.counters.streamBreaks 1 ∧
        t.counters.framesAdmitted = s.counters.framesAdmitted ∧ t.flags.getLsbD 5 = true ∧
        (s.intake.running = false →
          t = { s with
            counters := { s.counters with
              receivedU := countUp s.counters.receivedU 1, streamBreaks := t.counters.streamBreaks }
            flags := s.flags ||| 0x020, notices := t.notices
            lines := { s.lines with levels := t.lines.levels } }))

/-- An admitted RAW parcel met with no pass running starts one: the pending settings are applied, the pass number moves on,
the pass starts at the parcel, the lane history is cleared and then holds the parcel's 16 frames on the lanes in use and
cleared entries everywhere else, and 16 more frames are admitted on every lane in use; nothing beside the stream changes
(R19, R21, R24, R25, R28, R30). The whole of it: the start of the pass sets the tracker, resampler, detectors, repair
stages, delays, partial parcel and walkers of the sides enabled to their values (R22, R43, R53, R61, R80, R93, R119, R127,
R138; both lanes' delays by log 17, the fields of a detector's last run by log 27), and the parcel is then written as any
parcel of the pass, its frames presented and its boundary made (R28, R29; the sides' order is open, log 10). -/
def Obligations.AdmittedRawParcelsStartAPass : Prop :=
  ∀ (first : BitVec 32) (frames : Vector RawFrame 16) (s : State), s.unit.phase = .running →
    s.intake.transport = .play → s.intake.running = false → first.toNat ≤ 4294967280 →
    ∃ t, exec (.rawParcel first frames) s = .next t ∧
      t.intake =
        { transport := .play, running := true, passNumber := s.intake.passNumber + 1, passStart := first.toNat
          position := first.toNat + 15
          expected := if first.toNat = 4294967280 then none else some (first.toNat + 16)
          applied := ⟨s.settings.laneEnable, s.settings.direction, s.settings.window⟩ } ∧
      (∃ u, ParcelTaken first.toNat frames (passBegun first.toNat (receivedOnU s)) u ∧ t = settleLines u) ∧
      HistoryCanonical t ∧ HistoryBegins s.settings.laneEnable first.toNat frames t.history ∧
      t.counters.receivedU = countUp s.counters.receivedU 1 ∧
      (∀ l, t.counters.framesAdmitted.get l =
        if s.settings.laneEnable.get l then countUp (s.counters.framesAdmitted.get l) 16
        else s.counters.framesAdmitted.get l) ∧
      t.map.intakeWalker.running = true ∧
      (∀ d, (s.trackers.get d).state = .idle →
        ((t.trackers.get d).state ≠ .idle ↔
          s.settings.laneEnable.get (firstLane d) = true ∨ s.settings.laneEnable.get (secondLane d) = true)) ∧
      t.unit = s.unit ∧ t.link = s.link ∧ t.arbiter = s.arbiter ∧ t.directives = s.directives ∧
      t.settings = s.settings ∧ t.store = s.store ∧ t.map.entries = s.map.entries ∧ t.log.take s.log.length = s.log

/-- An admitted RAW parcel of a running pass (R25 to R27): at the expected position it goes on; 16, 32, 48 or 64 above it
the missing parcels are filled and STREAM_GAP is raised and counted once; anywhere else the pass ends, STREAM_BREAK is
raised and counted, and a new pass starts at the parcel, with the history cleared and its 16 frames written (R21, R28,
R30). A filled frame reads sample 0, stamp 0, level 0, carrier-valid clear and gap bit set on every lane in use, but for its
damage mark; the parcel's own frames follow them; each filled parcel has its own boundary, at which a side at work pushes
a stamp whose clean bit is clear, and the parcel's boundary pushes its last frame's stamp (R26, R29, R35). The notice of
STREAM_GAP carries the last filled position (R26, R146). In each case the parcel is written whole: every frame is presented
in lane order to the detectors of the lanes in use (R28, R81), and its boundary is the update and then the production of
each side at work and then the installation pending (R29, R42, R62, R77; the order between the sides is open, log 10); a
filled parcel is written the same way, and a break's new pass begins from the flushed end (R27, R31). -/
def Obligations.RunningPassesContinueFillOrBreak : Prop :=
  ∀ (first : BitVec 32) (frames : Vector RawFrame 16) (s : State), s.unit.phase = .running →
    s.intake.transport = .play → s.intake.running = true → first.toNat ≤ 4294967280 →
    ∃ t, exec (.rawParcel first frames) s = .next t ∧
      t.counters.receivedU = countUp s.counters.receivedU 1 ∧
      t.unit = s.unit ∧ t.link = s.link ∧ t.arbiter = s.arbiter ∧ t.directives = s.directives ∧
      t.settings = s.settings ∧ t.store = s.store ∧ t.map.entries = s.map.entries ∧
      let after := if first.toNat = 4294967280 then none else some (first.toNat + 16)
      (s.intake.expected = some first.toNat →
        t.intake = { s.intake with position := first.toNat + 15, expected := after } ∧
        (∃ u, ParcelTaken first.toNat frames (receivedOnU s) u ∧ t = settleLines u) ∧
        t.counters.streamGaps = s.counters.streamGaps ∧ t.counters.streamBreaks = s.counters.streamBreaks) ∧
      (∀ e n, s.intake.expected = some e → 1 ≤ n → n ≤ 4 → first.toNat = e + 16 * n →
        t.intake = { s.intake with position := first.toNat + 15, expected := after } ∧
        (∃ v u, GapFilled e n (receivedOnU s) v ∧
          ParcelTaken first.toNat frames
            { raise .streamGap v with counters := { v.counters with streamGaps := countUp v.counters.streamGaps 1 } } u ∧
          t = settleLines u) ∧
        t.counters.streamGaps = countUp s.counters.streamGaps 1 ∧
        t.counters.streamBreaks = s.counters.streamBreaks ∧ t.flags.getLsbD 4 = true ∧
        (s.flags.getLsbD 4 = false → s.settings.noticeMask.getLsbD 4 = true → (∀ x ∈ s.notices, x.kind ≠ .streamGap) →
          ⟨.streamGap, s.intake.passNumber, first.toNat - 1⟩ ∈ t.notices) ∧
        (HistoryCanonical s → HistoryCanonical t ∧
          (∀ l, s.intake.applied.laneEnable.get l = false → t.history.get l = s.history.get l) ∧
          (∀ l, s.intake.applied.laneEnable.get l = true →
            (∀ j < 16 * n, { ringRead (t.history.get l) ((e + j) % 2048) with damaged := false } = clearedEntry) ∧
            FramesStand first.toNat frames l (t.history.get l) ∧
            ElseKept e (16 * n + 16) (s.history.get l) (t.history.get l)) ∧
          ∀ d, (s.trackers.get d).state ≠ .idle →
            let pushed := fun (l : Lane) (ring : List StampEntry) =>
              if s.intake.applied.laneEnable.get l = true then
                let k := s.intake.applied.window / 16
                pushStamp k ((List.replicate n ⟨0, false⟩).foldl (pushStamp k) ring)
                  ⟨((frames.get 15).get l).stamp, (List.finRange 16).all fun i => ((frames.get i).get l).valid⟩
              else ring
            (t.trackers.get d).ringFirst = pushed (firstLane d) (s.trackers.get d).ringFirst ∧
            (t.trackers.get d).ringSecond = pushed (secondLane d) (s.trackers.get d).ringSecond)) ∧
      ((∀ n ≤ 4, s.intake.expected ≠ some (first.toNat - 16 * n) ∨ first.toNat < 16 * n) →
        t.intake =
          { transport := .play, running := true, passNumber := s.intake.passNumber + 1, passStart := first.toNat
            position := first.toNat + 15, expected := after
            applied := ⟨s.settings.laneEnable, s.settings.direction, s.settings.window⟩ } ∧
        (∃ v u, v = flushedEnd (receivedOnU s) ∧
          ParcelTaken first.toNat frames
            (passBegun first.toNat (raise .streamBreak
              { v with counters := { v.counters with streamBreaks := countUp v.counters.streamBreaks 1 } })) u ∧
          t = settleLines u) ∧
        HistoryCanonical t ∧ HistoryBegins s.settings.laneEnable first.toNat frames t.history ∧
        t.counters.streamGaps = s.counters.streamGaps ∧
        t.counters.streamBreaks = countUp s.counters.streamBreaks 1 ∧ t.flags.getLsbD 5 = true)

/-- The lane history after a parcel at the expected position (R28, R30, R88): on every lane in use the 16 entries at its
positions hold its frames, but for the damage mark; every other entry stays as it was but for a damage mark set; and
the rings of the lanes not in use stay as they were. -/
def Obligations.AdmittedFramesStandInTheHistory : Prop :=
  ∀ (first : BitVec 32) (frames : Vector RawFrame 16) (s : State), s.unit.phase = .running →
    s.intake.transport = .play → s.intake.running = true → first.toNat ≤ 4294967280 →
    s.intake.expected = some first.toNat → HistoryCanonical s →
    ∃ t, exec (.rawParcel first frames) s = .next t ∧ HistoryCanonical t ∧
      (∀ l, s.intake.applied.laneEnable.get l = false → t.history.get l = s.history.get l) ∧
      ∀ l, s.intake.applied.laneEnable.get l = true →
        FramesStand first.toNat frames l (t.history.get l) ∧ ElseKept first.toNat 16 (s.history.get l) (t.history.get l)

/-! ### Directives (Chapters 6, 8, 9, 10) -/

/-- With 4 answers waiting a directive for this unit is dropped unexecuted: counted as received and as dropped, and
DIRECTIVE_OVERRUN is raised; a broadcast one is still offered upstream (R8, R12, R159). -/
def Obligations.FullDirectiveQueueDropsTheDirective : Prop :=
  ∀ (c : Instr) (h : Header) (s : State), directiveHeader c = some h → c.wellFormed = true → s.unit.phase = .running →
    (addressIn h.addr = s.unit.unitAddress ∨ addressIn h.addr = 63#6) →
    (∀ body, c ≠ .directiveForOtherUnit h body) → 4 ≤ s.directives.length →
    ∃ t, exec c s = .next t ∧
      let u := arrived h (directiveBody c) s
      t = { u with
        counters := { u.counters with directivesDropped := countUp u.counters.directivesDropped 1 }
        flags := s.flags ||| 0x200
        notices := t.notices
        lines := { s.lines with levels := t.lines.levels } }

/-- Every executed directive gets one answer, at the tail of the queue, with its kind and tag echoed and a result of the
one length the table gives its kind; the answers before it stay (R159, R160, 12.4). RESET UNIT with Port D DOWN is
left out: its reset empties the queue (R177). -/
def Obligations.AnswersHaveTheLengthOfTheirKind : Prop :=
  ∀ (c : Instr) (h : Header) (s : State), directiveHeader c = some h → c.wellFormed = true → Executes h s →
    (∀ body, c ≠ .directiveForOtherUnit h body) → (c = .resetUnit h → s.link.link.d = .up) →
    ∃ t code result, exec c s = .next t ∧
      t.directives = s.directives ++ [⟨directiveKind (directiveBody c), h.tag, code, result⟩] ∧
      2 + result.length = (match (directiveKind (directiveBody c)).toNat with
        | 0x01 => 21
        | 0x02 => 54
        | 0x03 => 4
        | 0x04 => 11
        | 0x05 => 7
        | 0x10 => 16
        | 0x11 => 30
        | 0x12 => 31
        | 0x13 => 16
        | 0x20 => 4
        | 0x21 => 4
        | 0x22 => 10
        | 0x30 => 4
        | 0x31 => 190
        | 0x40 => 4
        | 0x41 => 3
        | 0x42 => 3
        | _ => 2)

/-- IDENTIFY and STATUS are answered OK with the items of R163 and R164, laid out by 12.4, and change nothing but the
counts, the forward copy and the queue. -/
def Obligations.IdentifyAndStatusReportTheState : Prop :=
  ∀ (h : Header) (s : State), Executes h s →
    exec (.identify h) s = .next (settleLines (answered 0x01 h .ok
      (([0x0A, 0x43, 1] : List Byte) ++ bytesBE 4 s.unit.serial.toNat
        ++ [BitVec.ofNat 8 s.unit.strapAddress.toNat, BitVec.ofNat 8 s.unit.unitAddress.toNat,
          match s.unit.resetCause with
          | .power => 0
          | .line => 1
          | .directive => 2,
          match s.unit.autoload with
          | .default => 0
          | .factory => 1
          | .builtin => 2,
          4, 2, 0, 64, 4, 0, 63, 4])
      (arrived h [0x01] s))) ∧
    let side := fun d : Side =>
      let t := s.trackers.get d
      [BitVec.ofNat 8 (trackerCode t.state)] ++ signedBE 4 t.appliedStep ++ signedBE 4 t.targetStep
        ++ signedBE 4 t.skewInForce ++ bytesBE 2 s.intake.applied.window ++ bytesBE 2 s.settings.window
    exec (.status h) s = .next (settleLines (answered 0x02 h .ok
      (side .A ++ side .B
        ++ [BitVec.ofNat 8 (detectorCode s.detectors.q0.state), BitVec.ofNat 8 (detectorCode s.detectors.q1.state),
          BitVec.ofNat 8 (detectorCode s.detectors.q2.state), BitVec.ofNat 8 (detectorCode s.detectors.q3.state),
          BitVec.ofNat 8 s.log.length]
        ++ bytesBE 2 s.flags.toNat
        ++ [if s.stager.loading then 1 else 0,
          match s.stager.install with
          | .none => 0
          | .load _ => 1
          | .recall _ => 2,
          match s.store.state with
          | .idle => 0
          | .saving _ _ _ => 1
          | .erasing _ => 2,
          match s.intake.transport with
          | .stop => 0
          | .play => 1
          | .spool => 2
          | .pause => 3,
          if s.intake.running then 1 else 0, s.intake.passNumber]
        ++ bytesBE 4 s.intake.position ++ [BitVec.ofNat 8 s.lines.duty])
      (arrived h [0x02] s)))

/-- SET ADDRESS: 0 to 62 replaces the unit address, 63 or more is RANGE and leaves it; the result carries the address
before and after (R11, R165). UNKNOWN_DIRECTIVE is answered UNKNOWN with an empty result, its kind echoed, and changes
nothing else (R162, R192). -/
def Obligations.SetAddressAndUnknownKinds : Prop :=
  ∀ (h : Header) (s : State), Executes h s →
    (∀ a : Byte, a.toNat ≤ 62 →
      exec (.setAddress h a) s = .next (settleLines (answered 0x03 h .ok [BitVec.ofNat 8 s.unit.unitAddress.toNat, a]
        { arrived h [0x03, a] s with unit := { s.unit with unitAddress := BitVec.ofNat 6 a.toNat } }))) ∧
    (∀ a : Byte, 63 ≤ a.toNat →
      exec (.setAddress h a) s = .next (settleLines (answered 0x03 h .range
        [BitVec.ofNat 8 s.unit.unitAddress.toNat, BitVec.ofNat 8 s.unit.unitAddress.toNat] (arrived h [0x03, a] s)))) ∧
    (∀ body, (Instr.unknownDirective h body).wellFormed = true →
      exec (.unknownDirective h body) s =
        .next (settleLines (answered (body.headD 0) h .unknown [] (arrived h body s))))

/-- READ SETTING: an id that names a setting, 0 to 41, is answered OK with the id, the table's value, and the applied value
of a pending setting or the table's value again; another id is answered UNKNOWN with both values 0, and the id field 0 as
every field a refusal's rule does not name (R160); nothing changes but the counts, the forward copy and the queue (R166,
12.4, 12.5). -/
def Obligations.ReadSettingReportsTableAndAppliedValues : Prop :=
  ∀ (h : Header) (id : Byte) (s : State), Executes h s →
    (settingValues s.settings).length = 42 ∧ (appliedValues s.intake.applied s.settings).length = 42 ∧
    (∀ v a, (settingValues s.settings)[id.toNat]? = some v →
      (appliedValues s.intake.applied s.settings)[id.toNat]? = some a →
      exec (.readSetting h id) s = .next (settleLines (answered 0x04 h .ok ([id] ++ signedBE 4 v ++ signedBE 4 a)
        (arrived h [0x04, id] s)))) ∧
    (42 ≤ id.toNat →
      exec (.readSetting h id) s = .next (settleLines (answered 0x04 h .unknown
        [0, 0, 0, 0, 0, 0, 0, 0, 0] (arrived h [0x04, id] s))))

/-- WRITE SETTING (R167, R168, R54, R10, R187, R188): the value is stored, clamped or refused by the setting's kind and range
as 9.4 gives them, the result carries the id and the value held after; a stored value changes that setting alone, and
besides the table only the applied steps (speed range, id 9), LINK_DEGRADED (link error threshold, id 31), the pause
request (pause on log high, id 38) and the trim loop (trim enable and trim side, ids 39 and 40). -/
def Obligations.WriteSettingStoresClampsOrRefuses : Prop :=
  ∀ (h : Header) (id : Byte) (value : BitVec 32) (s : State), Executes h s →
    let body := [0x05, id] ++ bytesBE 4 value.toNat
    let v := value.toInt
    let n := id.toNat
    (42 ≤ n →
      exec (.writeSetting h id value) s =
        .next (settleLines (answered 0x05 h .unknown [id, 0, 0, 0, 0] (arrived h body s)))) ∧
    ∀ kind held, settingRules[n]? = some kind → (settingValues s.settings)[n]? = some held →
      let refused := (kind = .speedRange ∧ v ≠ 2 ∧ v ≠ 4 ∧ v ≠ 8 ∧ v ≠ 12) ∨ ∃ k, kind = .codes k ∧ (v < 0 ∨ k ≤ v)
      (refused →
        exec (.writeSetting h id value) s = .next (settleLines (answered 0x05 h .range
          ([id] ++ signedBE 4 held) (arrived h body s)))) ∧
      (¬ refused →
        ∃ t w code, exec (.writeSetting h id value) s = .next t ∧
          (match kind with
            | .numeric lo hi =>
              w = (if v < lo then lo else if hi < v then hi else v) ∧ (code = .ok ↔ w = v)
            | .window =>
              w = (if v ≤ 64 then 64 else if v ≤ 128 then 128 else if v ≤ 256 then 256 else 512) ∧ (code = .ok ↔ w = v)
            | .speedRange => w = v ∧ code = .ok
            | .codes _ => w = v ∧ code = .ok) ∧
          (code = .ok ∨ code = .clamped) ∧
          t = settleLines (answered 0x05 h code ([id] ++ signedBE 4 w)
            { arrived h body s with
              settings := t.settings, trackers := t.trackers, flags := t.flags, notices := t.notices, lines := t.lines }) ∧
          settingValues t.settings = (settingValues s.settings).set n w ∧
          (∀ d, t.trackers.get d =
            if n = 9 ∧ (s.trackers.get d).state ≠ .idle then
              { s.trackers.get d with
                appliedStep := max (16777216 * (100 - w) / 100) (min (16777216 * (100 + w) / 100) (s.trackers.get d).appliedStep) }
            else s.trackers.get d) ∧
          t.flags =
            (if n = 31 ∧ (w ≤ s.link.errors.u ∨ w ≤ s.link.errors.d) then s.flags ||| 0x040 else s.flags) ∧
          (n ≠ 31 → t.notices = s.notices) ∧
          t.lines.pauseRequest =
            (if n = 38 then w == 1 && (s.lines.pauseRequest || decide (48 ≤ s.log.length)) else s.lines.pauseRequest) ∧
          (if n = 39 ∨ n = 40 then
            t.lines.trimCount = 0 ∧ t.lines.trimSum = 0 ∧ t.lines.allLocked = true
           else t.lines.trimCount = s.lines.trimCount ∧ t.lines.trimSum = s.lines.trimSum ∧
            t.lines.allLocked = s.lines.allLocked) ∧
          t.lines.duty = s.lines.duty ∧ t.lines.lineDuty = s.lines.lineDuty)

/-- MAP INSERT (R104, R106, R109 to R111): the five checks in order; an accepted entry takes the lowest free id and its
place in map order, the other entries stay, and every answer carries the id, the number held and the span as judged. -/
def Obligations.MapInsertChecksInOrder : Prop :=
  ∀ (h : Header) (cls lanes : Byte) (start stop param : BitVec 32) (s : State), Executes h s →
    let body := [0x10, cls, lanes] ++ bytesBE 4 start.toNat ++ bytesBE 4 stop.toNat ++ bytesBE 4 param.toNat
    let refusedWith := fun code => exec (.mapInsert h cls lanes start stop param) s =
      .next (settleLines (answered 0x10 h code ([0, 0] ++ bytesBE 2 s.map.entries.length ++ spanBlock s) (arrived h body s)))
    (¬ FormOk cls lanes start stop param → refusedWith .form) ∧
    (FormOk cls lanes start stop param →
      ∃ c, mapClassOfCode cls.toNat = some c ∧
        let e : Nat → MapEntry := fun id => ⟨id, c, lanes.setWidth 4, start.toNat, stop.toNat, param⟩
        (512 ≤ s.map.entries.length → refusedWith .full) ∧
        (s.map.entries.length < 512 → Late s start.toNat stop.toNat → refusedWith .late) ∧
        (s.map.entries.length < 512 → ¬ Late s start.toNat stop.toNat → Conflict s (e 0) → refusedWith .conflict) ∧
        (s.map.entries.length < 512 → ¬ Late s start.toNat stop.toNat → ¬ Conflict s (e 0) →
          MapShaped s → Crowded s (e 0) → refusedWith .crowded) ∧
        (s.map.entries.length < 512 → ¬ Late s start.toNat stop.toNat → ¬ Conflict s (e 0) →
          MapShaped s → ¬ Crowded s (e 0) →
          ∃ t id, exec (.mapInsert h cls lanes start stop param) s = .next t ∧
            id < 512 ∧ (∀ f ∈ s.map.entries, f.id ≠ id) ∧ (∀ j < id, ∃ f ∈ s.map.entries, f.id = j) ∧
            t.map.entries.Perm (e id :: s.map.entries) ∧
            t.map.entries.Pairwise (fun x y => x.start < y.start ∨ x.start = y.start ∧ x.id < y.id) ∧
            t = settleLines (answered 0x10 h .ok
              (bytesBE 2 id ++ bytesBE 2 (s.map.entries.length + 1) ++ spanBlock s)
              { arrived h body s with map := t.map }) ∧
            t.map.intakeWalker = { s.map.intakeWalker with next := t.map.intakeWalker.next } ∧
            ∀ d, t.map.sideWalker.get d = { s.map.sideWalker.get d with next := (t.map.sideWalker.get d).next }))

/-- MAP DELETE tests RANGE, EMPTY and LATE in that order; else the entry alone leaves the map, the answer carrying its
fields as they stood, the number held after and the span as judged (R112, 12.4). -/
def Obligations.MapDeleteChecksInOrder : Prop :=
  ∀ (h : Header) (id : BitVec 16) (s : State), Executes h s →
    let body := [0x11] ++ bytesBE 2 id.toNat
    let refusedWith := fun code => exec (.mapDelete h id) s =
      .next (settleLines (answered 0x11 h code
        (List.replicate 16 0 ++ bytesBE 2 s.map.entries.length ++ spanBlock s) (arrived h body s)))
    (511 < id.toNat → refusedWith .range) ∧
    (id.toNat ≤ 511 → (∀ e ∈ s.map.entries, e.id ≠ id.toNat) → refusedWith .empty) ∧
    (∀ before e after, id.toNat ≤ 511 → s.map.entries = before ++ e :: after → e.id = id.toNat →
      (∀ f ∈ before ++ after, f.id ≠ id.toNat) →
      (Late s e.start e.stop → refusedWith .late) ∧
      (¬ Late s e.start e.stop →
        ∃ t, exec (.mapDelete h id) s = .next t ∧ t.map.entries = before ++ after ∧
          t = settleLines (answered 0x11 h .ok
            (bytesBE 2 e.id ++ [BitVec.ofNat 8 (mapClassCode e.cls), BitVec.ofNat 8 e.lanes.toNat] ++ bytesBE 4 e.start
              ++ bytesBE 4 e.stop ++ bytesBE 4 e.param.toNat ++ bytesBE 2 (before ++ after).length ++ spanBlock s)
            { arrived h body s with map := t.map }) ∧
          t.map.intakeWalker = { s.map.intakeWalker with next := t.map.intakeWalker.next } ∧
          ∀ d, t.map.sideWalker.get d = { s.map.sideWalker.get d with next := (t.map.sideWalker.get d).next }))

/-- MAP READ changes nothing: OK with the entry's fields and its active lanes below the number held, EMPTY up to 511,
RANGE above; every answer carries the number held and the span (R114). An entry's lane is active when its id stands in
that lane's active set of a running walker: the intake walker for THRESHOLD, a side walker for the other classes. -/
def Obligations.MapReadReportsEntryAndActiveLanes : Prop :=
  ∀ (h : Header) (n : BitVec 16) (s : State), Executes h s →
    let body := [0x12] ++ bytesBE 2 n.toNat
    let rest := bytesBE 2 s.map.entries.length ++ spanBlock s
    (511 < n.toNat →
      exec (.mapRead h n) s =
        .next (settleLines (answered 0x12 h .range (List.replicate 17 0 ++ rest) (arrived h body s)))) ∧
    (n.toNat ≤ 511 → s.map.entries.length ≤ n.toNat →
      exec (.mapRead h n) s =
        .next (settleLines (answered 0x12 h .empty (List.replicate 17 0 ++ rest) (arrived h body s)))) ∧
    (∀ e, n.toNat ≤ 511 → s.map.entries[n.toNat]? = some e →
      ∃ active : Byte,
        (∀ l : Lane, active.getLsbD l.val = true ↔
          let w := if e.cls = .threshold then s.map.intakeWalker else s.map.sideWalker.get (sideOf l)
          w.running = true ∧ e.id ∈ w.active.get l) ∧
        active.toNat < 16 ∧
        exec (.mapRead h n) s = .next (settleLines (answered 0x12 h .ok
          (bytesBE 2 e.id ++ [BitVec.ofNat 8 (mapClassCode e.cls), BitVec.ofNat 8 e.lanes.toNat] ++ bytesBE 4 e.start
            ++ bytesBE 4 e.stop ++ bytesBE 4 e.param.toNat ++ [active] ++ rest) (arrived h body s))))

/-- MAP CLEAR deletes every entry outside the locked span and keeps the others with their ids and order; it is answered OK
with the numbers deleted and kept, which make the number held before, and the span as judged (R113). -/
def Obligations.MapClearKeepsTheLockedSpan : Prop :=
  ∀ (h : Header) (s : State), Executes h s →
    ∃ t deleted kept, exec (.mapClear h) s = .next t ∧
      t.map.entries.Sublist s.map.entries ∧
      (∀ e, e ∈ t.map.entries ↔ e ∈ s.map.entries ∧ Late s e.start e.stop) ∧
      (∀ e, Late s e.start e.stop → t.map.entries.count e = s.map.entries.count e) ∧
      (s.intake.running = false → t.map.entries = []) ∧
      kept = t.map.entries.length ∧ deleted + kept = s.map.entries.length ∧
      (s.map.entries = [] → deleted = 0 ∧ kept = 0) ∧
      t = settleLines (answered 0x13 h .ok (bytesBE 2 deleted ++ bytesBE 2 kept ++ spanBlock s)
        { arrived h [0x13] s with map := t.map }) ∧
      t.map.intakeWalker = { s.map.intakeWalker with next := t.map.intakeWalker.next } ∧
      ∀ d, t.map.sideWalker.get d = { s.map.sideWalker.get d with next := (t.map.sideWalker.get d).next }

/-- LOAD BEGIN: RANGE for a code above 4, BUSY while a load is in progress or an installation pending, else a load begins
with 128 chunks expected for the kernel and 1 for an EQ set, index and sum 0, the staging area zeroed and the load timer
started with the timeout in force (R170; the chunks field of a refused answer is log 13's). -/
def Obligations.LoadBeginStartsALoad : Prop :=
  ∀ (h : Header) (table : Byte) (s : State), Executes h s →
    let refusedWith := fun code => exec (.loadBegin h table) s =
      .next (settleLines (answered 0x20 h code [table, BitVec.ofNat 8 s.stager.expected] (arrived h [0x20, table] s)))
    (4 < table.toNat → refusedWith .range) ∧
    (table.toNat ≤ 4 → (s.stager.loading = true ∨ s.stager.install ≠ .none) → refusedWith .busy) ∧
    (table.toNat ≤ 4 → s.stager.loading = false → s.stager.install = .none →
      exec (.loadBegin h table) s = .next (settleLines (answered 0x20 h .ok [table, if table = 4 then 128 else 1]
        { arrived h [0x20, table] s with
          stager :=
            { s.stager with
              loading := true
              table := if table = 4 then some .kernel else some (.eq (Fin.ofNat 4 table.toNat))
              expected := if table = 4 then 128 else 1
              next := 0
              sum := 0
              timer := some ⟨0, s.settings.loadTimeout⟩
              staging := List.replicate 4096 0 } })))

/-- LOAD CHUNK: NOLOAD with no load, ORDER for another index or past the last chunk, FORM for a word out of the table's
range; else the words stand in their places, the running sum takes them, the index moves on and the timer restarts. Each
answer carries the index carried and the next index after (R171). -/
def Obligations.LoadChunkTakesTheExpectedChunk : Prop :=
  ∀ (h : Header) (index : Byte) (words : Vector (BitVec 32) 32) (s : State), Executes h s →
    let body := [0x21, index] ++ words.toList.flatMap fun w => bytesBE 4 w.toNat
    let g := s.stager
    let inOrder := index.toNat = g.next ∧ g.next < g.expected
    let inRange := ∀ i : Fin 32,
      if g.table = some .kernel then -32768 ≤ (words.get i).toInt ∧ (words.get i).toInt ≤ 32767
      else -8388608 ≤ (words.get i).toInt ∧ (words.get i).toInt ≤ 8388607
    let refusedWith := fun code => exec (.loadChunk h index words) s =
      .next (settleLines (answered 0x21 h code [index, BitVec.ofNat 8 g.next] (arrived h body s)))
    (g.loading = false → refusedWith .noload) ∧
    (g.loading = true → ¬ inOrder → refusedWith .order) ∧
    (g.loading = true → inOrder → ¬ inRange → refusedWith .form) ∧
    (g.loading = true → inOrder → inRange → g.staging.length = 4096 → g.expected ≤ 128 →
      ∃ t, exec (.loadChunk h index words) s = .next t ∧
        t = settleLines (answered 0x21 h .ok [index, BitVec.ofNat 8 (g.next + 1)]
          { arrived h body s with
            stager := { g with
              next := g.next + 1, sum := t.stager.sum, staging := t.stager.staging
              timer := some ⟨0, s.settings.loadTimeout⟩ } }) ∧
        t.stager.staging.length = 4096 ∧
        (∀ i : Fin 32, t.stager.staging[32 * index.toNat + i.val]? = some (words.get i).toInt) ∧
        (∀ j, (j < 32 * index.toNat ∨ 32 * index.toNat + 32 ≤ j) → t.stager.staging[j]? = g.staging[j]?) ∧
        (t.stager.sum.toNat : Int) =
          ((g.sum.toNat : Int) + (words.toList.map fun w => w.toInt).sum) % 4294967296)

/-- The ends of a load (R172 to R175, R77). LOAD END without a load is NOLOAD; short of chunks or with another sum it is
CHECK, the load is abandoned and LOAD_ABANDONED raised; else the staged table is marked, and installed at once when no
pass runs. LOAD CANCEL abandons a load with no event. The load timer's expiry abandons it with the event (log 3), and with
no load in progress changes nothing (log 6). The result carries both sums on every outcome (log 13). An installation
pending, of a load or of a recall, is made by the next parcel of the running pass, or by the end of the pass, flushed or
discarding: the tables it names are replaced and none is pending (R77, R131, R175). -/
def Obligations.LoadsEndMarkedOrAbandoned : Prop :=
  ∀ (h : Header) (sum : BitVec 32) (s : State),
    let body := [0x22] ++ bytesBE 4 sum.toNat
    let g := s.stager
    let result := bytesBE 4 sum.toNat ++ bytesBE 4 g.sum.toNat
    let ended := { g with loading := false, timer := none }
    (Executes h s →
      (g.loading = false →
        exec (.loadEnd h sum) s = .next (settleLines (answered 0x22 h .noload result (arrived h body s))) ∧
        exec (.loadCancel h) s = .next (settleLines (answered 0x23 h .noload [] (arrived h [0x23] s)))) ∧
      (g.loading = true → g.next < g.expected ∨ sum ≠ g.sum →
        ∃ t, exec (.loadEnd h sum) s = .next t ∧
          t = settleLines (answered 0x22 h .check result { arrived h body s with
            stager := ended, flags := s.flags ||| 0x080, notices := t.notices })) ∧
      (g.loading = true → g.expected ≤ g.next → sum = g.sum → ∀ c, g.table = some c →
        exec (.loadEnd h sum) s = .next (settleLines (answered 0x22 h .ok result
          (if s.intake.running then { arrived h body s with stager := { ended with install := .load c } }
           else { arrived h body s with
             stager := { ended with install := .none }
             kernel := if c = .kernel then g.staging else s.kernel
             eqSets := match c with
               | .kernel => s.eqSets
               | .eq n => s.eqSets.set n (g.staging.take 32) })))) ∧
      (g.loading = true →
        exec (.loadCancel h) s =
          .next (settleLines (answered 0x23 h .ok [] { arrived h [0x23] s with stager := ended })))) ∧
    (g.loading = true → ∃ t, exec .loadTimerExpiry s = .next t ∧
      t = settleLines { s with stager := ended, flags := s.flags ||| 0x080, notices := t.notices }) ∧
    (g.loading = false → exec .loadTimerExpiry s = .next (settleLines s)) ∧
    (∀ (first : BitVec 32) (frames : Vector RawFrame 16), s.unit.phase = .running → s.intake.transport = .play →
      s.intake.running = true → s.intake.expected = some first.toNat → first.toNat ≤ 4294967280 →
      ∃ t, exec (.rawParcel first frames) s = .next t ∧ t.kernel = (tablesInstalled s).1 ∧ t.eqSets = (tablesInstalled s).2 ∧
        t.stager = { g with install := .none }) ∧
    ∀ u, u = flushedEnd s ∨ u = discardingEnd s →
      u.kernel = (tablesInstalled s).1 ∧ u.eqSets = (tablesInstalled s).2 ∧ u.stager = { g with install := .none }

/-- ACK EVENTS clears the flags of the named kinds, leaves the notices, with LINK_DEGRADED named clears both link-error
counts, and answers with the flags after the clear (R10, R148). -/
def Obligations.AckEventsClearsTheNamedFlags : Prop :=
  ∀ (h : Header) (set : BitVec 16) (s : State), Executes h s →
    ∃ t, exec (.ackEvents h set) s = .next t ∧
      (∀ k : EventKind, t.flags.getLsbD k.code = (s.flags.getLsbD k.code && !set.getLsbD k.code)) ∧
      t.link.errors = (if set.getLsbD 6 then ⟨0, 0⟩ else s.link.errors) ∧
      t = settleLines (answered 0x30 h .ok (bytesBE 2 t.flags.toNat)
        { arrived h ([0x30] ++ bytesBE 2 set.toNat) s with
          flags := t.flags
          link := { (arrived h ([0x30] ++ bytesBE 2 set.toNat) s).link with errors := t.link.errors } })

/-- SNAPSHOT COUNTERS answers with the 47 counters in the order of R150, its own parcel counted, and with clear 1 every
counter is 0 after it; a clear above 1 is RANGE with zeros and clears nothing (R150, R151). A broadcast snapshot's own copy,
dropped at a full upstream queue, is counted before the snapshot is taken (log 11). -/
def Obligations.SnapshotCountersReportsAndClears : Prop :=
  ∀ (h : Header) (s : State), Executes h s →
    let c := (arrived h [0x31, 0] s).counters
    let sides := fun x : PerSide (BitVec 32) => [x.a, x.b]
    let lanes := fun x : Quad (BitVec 32) => [x.q0, x.q1, x.q2, x.q3]
    let values := (([c.receivedU, c.receivedD, c.checkErrorsU, c.checkErrorsD, c.malformed, c.streamGaps, c.streamBreaks,
      c.rawDiscarded, c.directivesRefused, c.directivesDropped, c.forwardedDropped, c.unloggedDropouts, c.cuesDropped]
      ++ sides c.outputFrames ++ sides c.lockAcquisitions ++ sides c.timeBaseLosses ++ sides c.heldParcels
      ++ sides c.cleanDiscarded ++ lanes c.framesAdmitted ++ lanes c.dropoutsClosed ++ lanes c.markedFrames
      ++ lanes c.repairedSamples ++ lanes c.damagedUnrepaired ++ lanes c.clippedSamples).map
        fun x => bytesBE 4 x.toNat).flatten
    exec (.snapshotCounters h 0) s = .next (settleLines (answered 0x31 h .ok values (arrived h [0x31, 0] s))) ∧
    (∃ t, exec (.snapshotCounters h 1) s = .next t ∧
      t = settleLines (answered 0x31 h .ok values { arrived h [0x31, 1] s with counters := t.counters }) ∧
      ∀ x ∈ t.counters.toList, x = 0) ∧
    (∀ clear : Byte, 1 < clear.toNat →
      exec (.snapshotCounters h clear) s =
        .next (settleLines (answered 0x31 h .range (List.replicate 188 0) (arrived h [0x31, clear] s))))

/-- PROFILE SAVE and PROFILE ERASE: RANGE, PROTECTED and BUSY in that order; else the slot is invalid at once and the store
is busy with the slot, a save with its copy of the settings table and the tables in use. At completion a save leaves the
slot valid with the copy, then names it in the header when make-default was yes; an erase leaves the slot empty and the
header off it (R178 to R181; the completions are log 3's, the completion of an operation the store is not at changes
nothing by log 6, the zeros of a refused answer are log 13's). -/
def Obligations.ProfileSaveAndEraseWriteTheSlot : Prop :=
  ∀ (h : Header) (slot mk : Byte) (s : State),
    (Executes h s →
      let saveRefused := fun code => exec (.profileSave h slot mk) s =
        .next (settleLines (answered 0x40 h code [0, 0] (arrived h [0x40, slot, mk] s)))
      let eraseRefused := fun code => exec (.profileErase h slot) s =
        .next (settleLines (answered 0x42 h code [0] (arrived h [0x42, slot] s)))
      (3 < slot.toNat ∨ 1 < mk.toNat → saveRefused .range) ∧
      (3 < slot.toNat → eraseRefused .range) ∧
      (slot = 0 → eraseRefused .protectedSlot) ∧
      (slot = 0 → mk.toNat ≤ 1 → saveRefused .protectedSlot) ∧
      ∀ n : Fin 4, n.val = slot.toNat → n ≠ 0 →
        ((s.store.state ≠ .idle ∨ s.stager.install = .recall n) →
          eraseRefused .busy ∧ (mk.toNat ≤ 1 → saveRefused .busy)) ∧
        (s.store.state = .idle → s.stager.install ≠ .recall n →
          (mk.toNat ≤ 1 → ∃ x : Slot, (∀ p, ¬ Slot.Valid x p) ∧
            exec (.profileSave h slot mk) s = .next (settleLines (answered 0x40 h .ok [slot, mk]
              { arrived h [0x40, slot, mk] s with
                store :=
                  { slots := s.store.slots.set n x
                    header := s.store.header
                    state := .saving n ⟨s.settings, s.kernel, s.eqSets⟩ (mk == 1)
                    elapsed := 0 } }))) ∧
          ∃ x : Slot, (∀ p, ¬ Slot.Valid x p) ∧ exec (.profileErase h slot) s = .next (settleLines (answered 0x42 h .ok [slot]
            { arrived h [0x42, slot] s with
              store :=
                { slots := s.store.slots.set n x
                  header := s.store.header
                  state := .erasing n
                  elapsed := 0 } })))) ∧
    (∀ n copy default, s.store.state = .saving n copy default →
      exec .profileSaveComplete s = .next (settleLines { s with
        store :=
          { slots := s.store.slots.set n ⟨some copy, (s.store.slots.get n).serial, slotCheck copy (s.store.slots.get n).serial⟩
            header := if default then n else s.store.header
            state := .idle
            elapsed := 0 } }) ∧
      exec .profileEraseComplete s = .next (settleLines s)) ∧
    (∀ n, s.store.state = .erasing n →
      (∃ x : Slot, x.profile = none ∧ exec .profileEraseComplete s = .next (settleLines { s with
        store :=
          { slots := s.store.slots.set n x
            header := if s.store.header = n then 0 else s.store.header
            state := .idle
            elapsed := 0 } })) ∧
      exec .profileSaveComplete s = .next (settleLines s))

/-- PROFILE RECALL: RANGE, BUSY and EMPTY in that order; else every setting of the slot stands in the table, the applied
settings wait, the tables are installed from the slot at once when no pass runs and else marked, the applied steps are
clamped and the link-error counts compared (R182, R168, R175; the zero of a refused answer is log 13's). -/
def Obligations.ProfileRecallWritesTheSettingsTable : Prop :=
  ∀ (h : Header) (slot : Byte) (s : State), Executes h s →
    let refusedWith := fun code => exec (.profileRecall h slot) s =
      .next (settleLines (answered 0x41 h code [0] (arrived h [0x41, slot] s)))
    (3 < slot.toNat → refusedWith .range) ∧
    ∀ n : Fin 4, n.val = slot.toNat →
      let busy := s.store.state ≠ .idle ∨ s.stager.loading = true ∨ s.stager.install ≠ .none
      (busy → refusedWith .busy) ∧
      (¬ busy → (∀ p, ¬ Slot.Valid (s.store.slots.get n) p) → refusedWith .empty) ∧
      (∀ p, ¬ busy → Slot.Valid (s.store.slots.get n) p →
        ∃ t, exec (.profileRecall h slot) s = .next t ∧
          t = settleLines (answered 0x41 h .ok [slot]
            { arrived h [0x41, slot] s with
              settings := p.settings
              kernel := if s.intake.running then s.kernel else p.kernel
              eqSets := if s.intake.running then s.eqSets else p.eqSets
              stager := { s.stager with install := if s.intake.running then .recall n else .none }
              trackers := t.trackers, flags := t.flags, notices := t.notices, lines := t.lines }) ∧
          (∀ d, t.trackers.get d =
            if (s.trackers.get d).state = .idle then s.trackers.get d
            else { s.trackers.get d with
              appliedStep := max (rangeLow p.settings.speedRange)
                (min (rangeHigh p.settings.speedRange) (s.trackers.get d).appliedStep) }) ∧
          t.flags = (if p.settings.linkThreshold ≤ s.link.errors.u ∨ p.settings.linkThreshold ≤ s.link.errors.d then
            s.flags ||| 0x040 else s.flags) ∧
          t.lines.pauseRequest =
            (p.settings.pauseOnLogHigh && (s.lines.pauseRequest || decide (48 ≤ s.log.length))) ∧
          t.lines.trimCount = 0 ∧ t.lines.duty = s.lines.duty)

/-- RESET ENGINE (R33, R48, R91, R120, R137, R140, R149, R176, R188): a running pass ends with nothing flushed, a load in
progress is abandoned with its event, the trim duty is 128, the cue queue keeps a report in transmission alone, and the
pending settings are applied; the settings, the map's entries, the store, the links and the unit are kept. The open runs of
the lanes in use are recorded CUT in lane order, the parcels discarded from a clean queue are counted, and an installation
pending is made. -/
def Obligations.ResetEngineResetsTheChain : Prop :=
  ∀ (h : Header) (s : State), Executes h s → s.map.intakeWalker.running = s.intake.running →
    (∀ d, (s.map.sideWalker.get d).running = sideActive s d) →
    (s.intake.running = false → ∀ d, (s.trackers.get d).state = .idle) →
    ∃ t, exec (.resetEngine h) s = .next t ∧
      t.directives = s.directives ++ [⟨0x50, h.tag, .ok, []⟩] ∧
      t.intake = { s.intake with
        running := false
        expected := if s.intake.running then none else s.intake.expected
        applied := ⟨s.settings.laneEnable, s.settings.direction, s.settings.window⟩ } ∧
      (∀ d, (t.trackers.get d).state = .idle) ∧
      (∀ d, (s.trackers.get d).state ≠ .idle → t.trackers.get d = { s.trackers.get d with
        state := .idle, appliedStep := 16777216, holdCount := 0, validRun := 0, force := .none }) ∧
      (∀ d, (s.trackers.get d).state ≠ .idle → t.partials.get d = [] ∧
        t.cleanQueues.get d =
          match s.arbiter.sending with
          | some ⟨.clean e, _⟩ => if e = d then (s.cleanQueues.get d).take 1 else []
          | _ => []) ∧
      (∀ d, (s.trackers.get d).state = .idle → t.partials.get d = s.partials.get d ∧ t.cleanQueues.get d = s.cleanQueues.get d) ∧
      (∀ d, t.counters.cleanDiscarded.get d =
        countUp (s.counters.cleanDiscarded.get d) ((s.cleanQueues.get d).length - (t.cleanQueues.get d).length)) ∧
      (s.intake.running = true → s.log.length ≤ 64 →
        t.log = (s.log ++ cutRecords s).take 64 ∧
        t.counters.unloggedDropouts =
          countUp s.counters.unloggedDropouts (s.log.length + (cutRecords s).length - 64) ∧
        ∀ l, t.counters.dropoutsClosed.get l =
          if ∃ r ∈ cutRecords s, r.lane = l then countUp (s.counters.dropoutsClosed.get l) 1
          else s.counters.dropoutsClosed.get l) ∧
      (s.intake.running = false → t.log = s.log ∧ t.counters.dropoutsClosed = s.counters.dropoutsClosed) ∧
      t.kernel = (tablesInstalled s).1 ∧ t.eqSets = (tablesInstalled s).2 ∧
      (s.intake.running = true → ∀ l, s.intake.applied.laneEnable.get l = true → (t.detectors.get l).state = .clear) ∧
      t.cues = (match s.arbiter.sending with
        | some ⟨.cue, _⟩ => s.cues.take 1
        | _ => []) ∧
      t.stager = { s.stager with loading := false, timer := t.stager.timer, install := .none } ∧
      (s.stager.loading = true → t.stager.timer = none ∧ t.flags.getLsbD 7 = true) ∧
      (s.stager.loading = false → t.stager.timer = s.stager.timer) ∧
      t.lines.duty = 128 ∧ t.lines.trimCount = 0 ∧ t.lines.trimSum = 0 ∧ t.lines.allLocked = true ∧
      t.unit = s.unit ∧ t.link = (arrived h [0x50] s).link ∧ t.settings = s.settings ∧ t.store = s.store ∧
      t.map.entries = s.map.entries ∧ t.map.intakeWalker.running = false ∧ t.history = s.history ∧
      t.eqLanes = s.eqLanes ∧ t.eqSides = s.eqSides ∧ t.resamplers = s.resamplers ∧ t.repairs = s.repairs ∧
      t.arbiter = s.arbiter ∧ s.log <+: t.log ∧ s.notices <+: t.notices

/-- RESET UNIT is answered OK while Port D is UP and changes nothing yet; with Port D DOWN the unit reset takes place at
once, as it does when the transmission of its answer completes (R177, R183; values before the autoload are log 8's). -/
def Obligations.ResetUnitWaitsForItsAnswer : Prop :=
  ∀ (h : Header) (s : State),
    let afterReset := settleLines { State.reset with
      unit := { State.reset.unit with
        phase := .startUp, resetCause := .directive, straps := s.unit.straps
        strapAddress := s.unit.straps.setWidth 6, unitAddress := s.unit.straps.setWidth 6 }
      link := { State.reset.link with
        alive := s.link.alive
        link := ⟨if s.link.alive.u then .up else .down, if s.link.alive.d then .up else .down⟩ }
      store := { s.store with state := .idle, elapsed := 0 }
      freeCount := s.freeCount
      pending := s.pending }
    (Executes h s → s.link.link.d = .up →
      exec (.resetUnit h) s = .next (settleLines (answered 0x51 h .ok [] (arrived h [0x51] s)))) ∧
    (Executes h s → s.link.link.d = .down → s.unit.resetLine = false → exec (.resetUnit h) s = .next afterReset) ∧
    (∀ x a rest, s.unit.resetLine = false → s.arbiter.sending = some ⟨.directive, x⟩ → s.directives = a :: rest →
      a.kind = 0x51 → exec .parcelTransmitted s = .next afterReset)

/-- The trim line takes up the duty at the start of a pulse period (R190), low without power or in reset (R191); at the
256th boundary of an interval the duty moves by one when every boundary was locked and the mean lies beyond the deadband,
and the loop starts again; at any other the sum and the indication take the boundary (R188, R189). -/
def Obligations.TrimFollowsTheMeanStep : Prop :=
  (∀ s : State, (s.unit.phase = .startUp ∨ s.unit.phase = .running) →
    exec .trimPulsePeriod s = .next (settleLines { s with lines := { s.lines with lineDuty := s.lines.duty } })) ∧
  (∀ s : State, (s.unit.phase = .off ∨ s.unit.phase = .held) → exec .trimPulsePeriod s = .next (settleLines s)) ∧
  ∀ (d : Side) (s : State),
    ((s.settings.trimEnable = false ∨ s.settings.trimSide ≠ d ∨ (s.trackers.get d).state = .idle) → trimCount d s = s) ∧
    (s.settings.trimEnable = true → s.settings.trimSide = d → (s.trackers.get d).state ≠ .idle →
      let sum := s.lines.trimSum + (s.trackers.get d).appliedStep
      let locked := s.lines.allLocked = true ∧ (s.trackers.get d).state = .locked
      (s.lines.trimCount < 255 → ∃ b, (b = true ↔ locked) ∧
        trimCount d s = { s with lines := { s.lines with
          trimCount := s.lines.trimCount + 1, trimSum := sum, allLocked := b } }) ∧
      (s.lines.trimCount = 255 → s.lines.duty ≤ 255 → ∃ duty ≤ 255,
        trimCount d s = { s with lines := { s.lines with trimCount := 0, trimSum := 0, allLocked := true, duty := duty } } ∧
        (¬ locked → duty = s.lines.duty) ∧
        (locked → 256 * (16777216 + (s.settings.trimDeadband : Int) + 1) ≤ sum →
          duty = if s.lines.duty = 255 then 255 else s.lines.duty + 1) ∧
        (locked → sum < 256 * (16777216 - (s.settings.trimDeadband : Int)) →
          duty = if s.lines.duty = 0 then 0 else s.lines.duty - 1) ∧
        (256 * (16777216 - (s.settings.trimDeadband : Int)) ≤ sum →
          sum < 256 * (16777216 + (s.settings.trimDeadband : Int) + 1) → duty = s.lines.duty)))

/-! ### The time base (Chapter 3) -/

/-- A stamp ring keeps the newest K+1 entries in the order in which they were pushed; a boundary pushes on each lane in use the
stamp at the parcel's end, with the clean bit of its 16 frames; each pass start empties both rings of a side, enabled or
not; a pass end, flushed or discarding, leaves them; STATUS does not report them (R35, R36). -/
def Obligations.StampRingsKeepTheNewestEntries : Prop :=
  (∀ (k : Nat) (es : List StampEntry), es.foldl (pushStamp k) [] = es.drop (es.length - (k + 1))) ∧
  (∀ (k : Nat) (ring : List StampEntry) (e : StampEntry), ring.length ≤ k + 1 →
    pushStamp k ring e = (if ring.length = k + 1 then ring.tail else ring) ++ [e]) ∧
  (∀ d s t, ∃ cleanFirst cleanSecond : Bool,
    (pushRings d s t).ringFirst =
      (if s.intake.applied.laneEnable.get (firstLane d) = true then
        pushStamp (s.intake.applied.window / 16) t.ringFirst
          ⟨(historyAt s (firstLane d) s.intake.position).stamp, cleanFirst⟩
       else t.ringFirst) ∧
    (pushRings d s t).ringSecond =
      (if s.intake.applied.laneEnable.get (secondLane d) = true then
        pushStamp (s.intake.applied.window / 16) t.ringSecond
          ⟨(historyAt s (secondLane d) s.intake.position).stamp, cleanSecond⟩
       else t.ringSecond) ∧
    (cleanFirst = true ↔ ∀ i < 16, (historyAt s (firstLane d) (s.intake.position - i)).valid = true ∧
      (historyAt s (firstLane d) (s.intake.position - i)).gap = false) ∧
    (cleanSecond = true ↔ ∀ i < 16, (historyAt s (secondLane d) (s.intake.position - i)).valid = true ∧
      (historyAt s (secondLane d) (s.intake.position - i)).gap = false)) ∧
  (∀ p d s, ((passStart p s).trackers.get d).ringFirst = [] ∧ ((passStart p s).trackers.get d).ringSecond = []) ∧
  (∀ d s, ((flushedEnd s).trackers.get d).ringFirst = (s.trackers.get d).ringFirst ∧
    ((flushedEnd s).trackers.get d).ringSecond = (s.trackers.get d).ringSecond ∧
    ((discardingEnd s).trackers.get d).ringFirst = (s.trackers.get d).ringFirst ∧
    ((discardingEnd s).trackers.get d).ringSecond = (s.trackers.get d).ringSecond) ∧
  (∀ d a b s, (replyStatus { s with
    trackers := s.trackers.modify d fun t => { t with ringFirst := a, ringSecond := b } }).2 = (replyStatus s).2)

/-- The rounding of the measurement and the skew (R37, R39, R40, R56, R57): nominal count, target and average are rounded as
stated, the limits are floors, a target outside them or a count of 0 is no valid measurement, and the skew is the whole
phase offset in units of 2^-24 frame, rounded half away from zero and clamped to eight frames. -/
def Obligations.MeasurementAndSkewRoundAsStated : Prop :=
  (∀ bias w : Nat, 192000 * nominalCount bias w ≤ 512 * bias * w + 96000 ∧
    512 * bias * w < 192000 * nominalCount bias w + 96000) ∧
  (∀ bias w d : Nat, 0 < d → d * targetFor bias w d ≤ nominalCount bias w * 16777216 + d / 2 ∧
    nominalCount bias w * 16777216 + d / 2 < d * targetFor bias w d + d) ∧
  (∀ r : Nat, 100 * rangeLow r ≤ 16777216 * (100 - (r : Int)) ∧ 16777216 * (100 - (r : Int)) < 100 * rangeLow r + 100 ∧
    100 * rangeHigh r ≤ 16777216 * (100 + (r : Int)) ∧ 16777216 * (100 + (r : Int)) < 100 * rangeHigh r + 100) ∧
  (∀ bias w r : Nat, validTarget bias w r none = none ∧ validTarget bias w r (some 0) = none ∧
    ∀ d t, 0 < d → (validTarget bias w r (some d) = some t ↔
      t = (targetFor bias w d : Int) ∧ rangeLow r ≤ t ∧ t ≤ rangeHigh r)) ∧
  (∀ (a b : BitVec 24), -128 ≤ phaseOf .forward a b ∧ phaseOf .forward a b ≤ 127 ∧
    ((b.toNat : Int) - a.toNat - phaseOf .forward a b) % 256 = 0 ∧ phaseOf .reverse a b = -phaseOf .forward a b) ∧
  (∀ phi e : Int, 16 * (averageSkew phi e - e) ≤ 16 * phi - e ∧ 16 * phi - e < 16 * (averageSkew phi e - e) + 16) ∧
  (∀ (bias : Nat) (cycles e : Int), 0 < bias →
    let x := computedSkew bias cycles e
    let u := cycles * 4096 + e
    x ≤ 134217728 ∧ -134217728 ≤ x ∧ computedSkew bias (-cycles) (-e) = -x ∧ (0 ≤ u → 0 ≤ x) ∧
    (x < 134217728 → -134217728 < x → 2 * abs ((bias : Int) * x - u * 393216000) ≤ (bias : Int)) ∧
    (x = 134217728 → 2 * ((bias : Int) * 134217728) ≤ 2 * (u * 393216000) + (bias : Int)))

/-- The update of a tracker by the state it holds (R41, R44 to R47, R49 to R51): ACQUIRE and FREE slew toward 1.0 and count
valid measurements to LOCKED; LOCKED slews toward the target or falls to HOLD; HOLD returns to LOCKED, or counts to FREE
with a time-base loss; a HOLD force changes nothing, a NOMINAL force slews toward 1.0 alone. A slew moves by at most the
slew limit and stops at its goal. The update at a boundary, whole (R42): the rings pushed, the counts of the lanes that
qualify (R37) taken by the reference lane (R38), the target set by a valid measurement (R40), the skew average moved when
both lanes qualify (R56), the state rule applied, the skew in force the SKEW entry's, else by the mode (R58), the three
counters moved (R49) and a loss reported as TB_LOST of the side (R46); then the trim loop looks at it (log 28). IDLE does no
work. -/
def Obligations.TrackersMoveByTheirStateRules : Prop :=
  (∀ (d : Side) (s : State),
    let t := s.trackers.get d
    let u := pushRings d s t
    let k := s.intake.applied.window / 16
    let a := qualifiedCount k (s.intake.applied.laneEnable.get (firstLane d)) u.ringFirst
    let b := qualifiedCount k (s.intake.applied.laneEnable.get (secondLane d)) u.ringSecond
    let target := validTarget (s.settings.biasHz.get d) s.intake.applied.window s.settings.speedRange
      (referenceCount (s.settings.reference.get d) a b)
    let average :=
      if target ≠ none ∧ a ≠ none ∧ b ≠ none then
        averageSkew (phaseOf (s.intake.applied.direction.get d) (newestStamp u.ringFirst) (newestStamp u.ringSecond))
          t.skewAverage
      else t.skewAverage
    let after := (judgeState s.settings.slew s.settings.lockCount s.settings.holdLimit target
      { u with targetStep := target.getD t.targetStep, skewAverage := average }).next
    let skew :=
      match skewEntry s d with
      | some p => p
      | none =>
        if s.settings.skewMode.get d = .auto then
          computedSkew (s.settings.biasHz.get d) (s.settings.skewCycles.get d) average
        else 0
    let more := fun (happened : Bool) (x : PerSide (BitVec 32)) => if happened then x.set d (countUp (x.get d) 1) else x
    let locked := decide ((t.state = .acquire ∨ t.state = .free) ∧ after.state = .locked)
    let lost := decide (t.state = .hold ∧ after.state = .free)
    let v : State := { s with
      trackers := s.trackers.set d { after with skewInForce := skew }
      counters := { s.counters with
        lockAcquisitions := more locked s.counters.lockAcquisitions
        timeBaseLosses := more lost s.counters.timeBaseLosses
        heldParcels := more (decide (after.state = .hold)) s.counters.heldParcels } }
    (t.state = .idle → updateTracker d s = s) ∧
    (t.state ≠ .idle →
      updateTracker d s = trimCount d (if lost then raise (match d with | .A => .tbLostA | .B => .tbLostB) v else v))) ∧
  ∀ (slew lockCount holdLimit : Nat) (t : Tracker),
    let toward := fun g : Int =>
      if abs (g - t.appliedStep) ≤ (slew : Int) then g else if t.appliedStep < g then t.appliedStep + slew else t.appliedStep - slew
    let judge := fun target => judgeState slew lockCount holdLimit target t
    (t.force = .none → (t.state = .acquire ∨ t.state = .free) →
      (∀ g, lockCount ≤ t.validRun + 1 → judge (some g) =
        ⟨{ t with state := .locked, appliedStep := toward 16777216, validRun := 0 }, true, false⟩) ∧
      (∀ g, t.validRun + 1 < lockCount → judge (some g) =
        ⟨{ t with appliedStep := toward 16777216, validRun := t.validRun + 1 }, false, false⟩) ∧
      judge none = ⟨{ t with appliedStep := toward 16777216, validRun := 0 }, false, false⟩) ∧
    (t.force = .none → t.state = .locked →
      (∀ g, judge (some g) = ⟨{ t with appliedStep := toward g }, false, false⟩) ∧
      judge none = ⟨{ t with state := .hold, holdCount := 0 }, false, false⟩) ∧
    (t.force = .none → t.state = .hold →
      (∀ g, judge (some g) = ⟨{ t with state := .locked, appliedStep := toward g }, false, false⟩) ∧
      (t.holdCount + 1 < holdLimit → judge none = ⟨{ t with holdCount := t.holdCount + 1 }, false, false⟩) ∧
      (holdLimit ≤ t.holdCount + 1 →
        judge none = ⟨{ t with state := .free, holdCount := t.holdCount + 1, validRun := 0 }, false, true⟩)) ∧
    (∀ id target, t.force = .hold id → judge target = ⟨t, false, false⟩) ∧
    (∀ id target, t.force = .nominal id → judge target = ⟨{ t with appliedStep := toward 16777216 }, false, false⟩)

/-! ### The resampler and its kernel (Chapter 4) -/

/-- The factory kernel (R76): at each phase the four coefficients of the cubic Lagrange interpolator at f = p/1,024, times
16,384 and rounded half away from zero; the phases the rule lists; and the kernel held in slot 0 and built into the part
(State.reset's slot 0, and the profile used when no slot can be). -/
def Obligations.FactoryKernelIsTheLagrangeInterpolator : Prop :=
  (∀ p : Nat, p < 1024 →
    let f : ℚ := (p : ℚ) / 1024
    let lagrange : List ℚ :=
      [-f * (f - 1) * (f - 2) / 6, (f + 1) * (f - 1) * (f - 2) / 2, -(f + 1) * f * (f - 2) / 2, (f + 1) * f * (f - 1) / 6]
    ∀ j : Nat, j < 4 → ∃ (c : Int) (x : ℚ), factoryKernel[4 * p + j]? = some c ∧ lagrange[j]? = some x ∧
      abs ((c : ℚ) - 16384 * x) ≤ 1 / 2 ∧
      (abs ((c : ℚ) - 16384 * x) = 1 / 2 → abs (16384 * x) < abs (c : ℚ))) ∧
  (factoryKernel.take 4 = [0, 16384, 0, 0] ∧ (factoryKernel.drop 4).take 4 = [-5, 16376, 16, -3] ∧
    (factoryKernel.drop 1024).take 4 = [-896, 13440, 4480, -640] ∧
    (factoryKernel.drop 1536).take 4 = [-1040, 11440, 6864, -880] ∧
    (factoryKernel.drop 2048).take 4 = [-1024, 9216, 9216, -1024] ∧
    (factoryKernel.drop 3072).take 4 = [-640, 4480, 13440, -896]) ∧
  (State.reset.store.slots.get 0).profile.map (·.kernel) = some factoryKernel ∧ factoryProfile.kernel = factoryKernel ∧
  ∀ a b c d : Int, interpolate [0, 16384, 0, 0] [a, b, c, d] = b

/-- One output frame of a side (R63 to R65): its output cursor is the integer part of the read position, the read position
moves on by the applied step, the frame number by one or, after the last, the side is exhausted, and one frame is counted.
A boundary's production makes frame after frame while the production condition of R62 holds, makes none once it fails, and
stops nowhere else, whatever the bound the model counts by (log 18): for every side at work whose applied step is
positive; a side in IDLE makes none. While the condition holds, no lane's four source frames reach above the intake
position minus the lag (R69). What a frame hands on: the first lane is read at the read position, the second at that plus
the skew in force (R72); each lane in use gives the sum of the four coefficients of its phase times the four source frames
i - 1 to i + 2, plus 8,192, over 16,384 with the floor, saturated, with a clip when that changed it, and is damaged or
gap-touched when a source frame is (R70, R71, R73); a source frame below the pass start position is a cleared one (R68).
After the walker's move to the output cursor each lane goes through its repair stage, and the frame, with its number and
output cursor, into the equalizer (R63, R74). -/
def Obligations.ProductionGoesOnWhileItsConditionHolds : Prop :=
  (∀ (d : Side) (s : State),
    let r := s.resamplers.get d
    let x := (produceFrame d s).resamplers.get d
    x.cursor = (r.readPos / 16777216).toNat ∧ x.readPos = r.readPos + (s.trackers.get d).appliedStep ∧ x.lag = r.lag ∧
    (r.frameNumber < 4294967295 → x.frameNumber = r.frameNumber + 1 ∧ x.exhausted = r.exhausted) ∧
    (4294967295 ≤ r.frameNumber → x.frameNumber = r.frameNumber ∧ x.exhausted = true) ∧
    (produceFrame d s).counters.outputFrames.get d = countUp (s.counters.outputFrames.get d) 1) ∧
  (∀ (d : Side) (s : State),
    ((s.trackers.get d).state = .idle → production d s = s) ∧
    ((s.trackers.get d).state ≠ .idle → 0 < (s.trackers.get d).appliedStep →
      ∃ n, production d s = (produceFrame d)^[n] s ∧ (∀ k < n, MayProduce d ((produceFrame d)^[k] s)) ∧
        ¬ MayProduce d (production d s))) ∧
  (∀ (l : Lane) (s : State), MayProduce (sideOf l) s →
    ∀ x, (x = sourcePosition s l ∨ x = (s.resamplers.get (sideOf l)).readPos) →
      x / 16777216 + 2 ≤ (s.intake.position : Int) - (s.resamplers.get (sideOf l)).lag) ∧
  (∀ (s : State) (d : Side),
    sourcePosition s (firstLane d) = (s.resamplers.get d).readPos ∧
    sourcePosition s (secondLane d) = (s.resamplers.get d).readPos + (s.trackers.get d).skewInForce) ∧
  (∀ (s : State) (l : Lane) (x : Int),
    let frame := fun k : Int =>
      let j := x / 16777216 - 1 + k
      if j < (s.intake.passStart : Int) then clearedEntry else ringRead (s.history.get l) (j.toNat % 2048)
    let coefficient := fun k : Nat => (s.kernel[4 * ((x % 16777216) / 16384).toNat + k]?).getD 0
    let sum := coefficient 0 * (frame 0).sample + coefficient 1 * (frame 1).sample + coefficient 2 * (frame 2).sample
      + coefficient 3 * (frame 3).sample
    ∃ y : Int, 16384 * y ≤ sum + 8192 ∧ sum + 8192 < 16384 * y + 16384 ∧
      laneInputAt s l x =
        ⟨max (-8388608) (min 8388607 y), decide (y < -8388608 ∨ 8388607 < y),
          (frame 0).damaged || (frame 1).damaged || (frame 2).damaged || (frame 3).damaged,
          (frame 0).gap || (frame 1).gap || (frame 2).gap || (frame 3).gap⟩) ∧
  ∀ (d : Side) (s : State),
    let r := s.resamplers.get d
    let cursor := (r.readPos / 16777216).toNat
    let input := fun l : Lane =>
      if s.intake.applied.laneEnable.get l = true then some (laneInputAt s l (sourcePosition s l)) else none
    let moved := walkTo d cursor { s with resamplers := s.resamplers.set d { r with cursor := cursor } }
    let first := repairLane (firstLane d) (input (firstLane d)) (input (secondLane d)) moved
    let second := repairLane (secondLane d) (input (secondLane d)) (input (firstLane d)) first.2
    let counted : State := { second.2 with
      counters := { second.2.counters with
        outputFrames := second.2.counters.outputFrames.set d (countUp (second.2.counters.outputFrames.get d) 1) } }
    let made := eqIntake d first.1 second.1 (some ⟨r.frameNumber, cursor⟩) counted
    produceFrame d s = { made with resamplers := made.resamplers.set d ((produceFrame d s).resamplers.get d) }

/-! ### Detector, repair, equalizer, gain (Chapters 5 and 7) -/

/-- The detector of a lane (R84 to R87, R89): from CLEAR, low frames make a SUSPECT run that becomes a DROPOUT with the
N_in_eff-th of them, which marks every frame of the run; in DROPOUT low frames are marked; N_out frames in a row that are
not low close the run at the frame before the last of them, which alone is not marked; a low frame among them takes the
run back to DROPOUT. A SUSPECT run met by a frame that is not low is forgotten (R85). A frame presented is low when its
carrier-valid bit is clear or its level is below the threshold in force (R82), and is judged with the lesser of N_in and
W/2 - 1 (R83); the frames it marks get their damage marks and are counted (R88), and a run that closes is counted and
offered to the log as a NORMAL record (R90). -/
def Obligations.DetectorsOpenAndCloseRuns : Prop :=
  (∀ (threshold : Nat) (e : HistEntry), isLow threshold e = true ↔ e.valid = false ∨ e.level < threshold) ∧
  (∀ nIn window : Nat, nInEff nIn window = min nIn (window / 2 - 1)) ∧
  (∀ (inEff out pos : Nat) (e : HistEntry) (d : Detector), d.state = .suspect →
    let x := examineFrame inEff out false pos e d
    x.next.state = .clear ∧ x.next.count = 0 ∧ x.markCount = 0 ∧ x.closed = none) ∧
  (∀ (l : Lane) (pos : Nat) (s : State), HistoryCanonical s →
    let d := s.detectors.get l
    let e := ringRead (s.history.get l) (pos % 2048)
    let x := examineFrame (min s.settings.nIn (s.intake.applied.window / 2 - 1)) s.settings.nOut
      (!e.valid || decide (e.level < thresholdInForce s l)) pos e d
    ∃ marked : State,
      marked = { s with
        detectors := s.detectors.set l x.next
        history := marked.history
        counters := { s.counters with
          markedFrames := s.counters.markedFrames.set l (countUp (s.counters.markedFrames.get l) x.markCount) } } ∧
      (∀ m, m ≠ l → marked.history.get m = s.history.get m) ∧
      (∀ j < 2048, ∀ hit : Bool, (hit = true ↔ ∃ i < x.markCount, j = (x.markFrom + i) % 2048) →
        ringRead (marked.history.get l) j =
          { ringRead (s.history.get l) j with damaged := (ringRead (s.history.get l) j).damaged || hit }) ∧
      presentFrame l pos s =
        (match x.closed with
        | none => marked
        | some stop =>
          appendDamage ⟨l, d.start, stop, d.lowest, d.gap, false, s.intake.passNumber⟩ { marked with
            counters := { marked.counters with
              dropoutsClosed := marked.counters.dropoutsClosed.set l (countUp (marked.counters.dropoutsClosed.get l) 1) } })) ∧
  ∀ (inEff out pos : Nat) (es : List HistEntry) (d : Detector),
    let run := fun (low : Bool) (n : Nat) =>
      ((es.take n).zipIdx).foldl (fun (u : Detector) x => (examineFrame inEff out low (pos + x.2) x.1 u).next) d
    (d.state = .clear →
      (∀ n, 1 ≤ n → n < inEff → n ≤ es.length →
        (run true n).state = .suspect ∧ (run true n).count = n ∧ (run true n).start = pos ∧
        (∀ e ∈ es.take n, (run true n).lowest ≤ e.level) ∧ (∃ e ∈ es.take n, (run true n).lowest = e.level) ∧
        ((run true n).gap = true ↔ ∃ e ∈ es.take n, e.gap = true)) ∧
      (∀ n e, n + 1 < inEff → es[n]? = some e →
        (examineFrame inEff out true (pos + n) e (run true n)).markCount = 0) ∧
      (∀ e, es[max inEff 1 - 1]? = some e →
        let x := examineFrame inEff out true (pos + (max inEff 1 - 1)) e (run true (max inEff 1 - 1))
        x.next.state = .dropout ∧ x.markFrom = pos ∧ x.markCount = max inEff 1 ∧ x.closed = none)) ∧
    (d.state = .dropout →
      (∀ e, examineFrame inEff out true pos e d =
        ⟨{ d with lowest := min d.lowest e.level, gap := d.gap || e.gap }, pos, 1, none⟩) ∧
      (∀ n e, n + 1 < out → es[n]? = some e →
        let x := examineFrame inEff out false (pos + n) e (run false n)
        x.next.state = .recovering ∧ x.markFrom = pos + n ∧ x.markCount = 1 ∧ x.closed = none) ∧
      (∀ e, es[max out 1 - 1]? = some e →
        let x := examineFrame inEff out false (pos + (max out 1 - 1)) e (run false (max out 1 - 1))
        x.next.state = .clear ∧ x.markCount = 0 ∧ x.closed = some (pos + (max out 1 - 1) - 1))) ∧
    (d.state = .recovering → ∀ e,
      (examineFrame inEff out true pos e d).next.state = .dropout ∧
      (examineFrame inEff out true pos e d).markCount = 1 ∧ (examineFrame inEff out true pos e d).closed = none)

/-- The repair methods (R95 to R101): an undamaged sample goes on as it is; a damaged one is passed and flagged, muted, held
with the decaying gain, or taken from its undamaged twin when the side's twin setting is on, else passed with
TWIN_UNAVAILABLE. GAP and TB_UNLOCKED are set whatever the method, and TWIN takes the twin's gap too. The repair stage of a
lane in use advances its own state first, repairs by the mode in force on the lane, hands on the sample with its flags, its
clip and the EQ set and gain in force, and counts it as repaired or as damaged and unrepaired (R94, R96, R102, R123,
R132); a lane not in use hands on nothing. -/
def Obligations.RepairFollowsTheModeInForce : Prop :=
  (∀ (l : Lane) (x : LaneInput) (other : Option LaneInput) (s : State),
    let d := sideOf l
    let r := repairNext x (s.repairs.get l)
    let y := repairSample (repairInForce s l) (s.settings.twin.get d) (s.trackers.get d).state r x other
    let more := fun (happened : Bool) (c : Quad (BitVec 32)) => if happened then c.set l (countUp (c.get l) 1) else c
    repairLane l (some x) other s =
      (some (y.sample, some ⟨y.flags, y.clip, eqSetInForce s l, gainInForce s l⟩),
        { s with
          repairs := s.repairs.set l r
          counters := { s.counters with
            repairedSamples := more y.flags.repaired s.counters.repairedSamples
            damagedUnrepaired := more y.flags.damaged s.counters.damagedUnrepaired } }) ∧
    repairLane l none other s = (none, s)) ∧
  ∀ (mode : RepairMode) (twin : Bool) (tracker : TrackerState) (r : Repair) (x : LaneInput) (other : Option LaneInput),
    let f : FlagSet := { FlagSet.none with gap := x.gap, tbUnlocked := tracker != .locked }
    let y := repairSample mode twin tracker r x other
    (x.damaged = false → y = ⟨x.sample, f, x.clip⟩) ∧
    (x.damaged = true → mode = .pass → y = ⟨x.sample, { f with damaged := true }, x.clip⟩) ∧
    (x.damaged = true → mode = .mute → y = ⟨0, { f with repaired := true, method := .mute }, false⟩) ∧
    (x.damaged = true → mode = .hold →
      y.flags = { f with repaired := true, method := .hold } ∧ y.clip = false ∧
      32768 * y.sample ≤ r.lastGood.getD 0 * r.holdGain ∧ r.lastGood.getD 0 * r.holdGain < 32768 * y.sample + 32768) ∧
    (∀ o, x.damaged = true → mode = .twin → other = some o → o.damaged = false → twin = true →
      y = ⟨o.sample, { f with repaired := true, method := .twin, gap := x.gap || o.gap }, o.clip⟩) ∧
    (x.damaged = true → mode = .twin → (twin = false ∨ other = none ∨ ∃ o, other = some o ∧ o.damaged = true) →
      y = ⟨x.sample, { f with damaged := true, twinUnavailable := true }, x.clip⟩) ∧
    (x.damaged = false → repairNext x r = ⟨some x.sample, r.holdGain, false⟩) ∧
    (x.damaged = true → r.inRun = false → repairNext x r = ⟨r.lastGood, 32767, true⟩) ∧
    (x.damaged = true → r.inRun = true → repairNext x r = ⟨r.lastGood, r.holdGain - r.holdGain / 64, true⟩)

/-- The filter of R129: the exact sum of the 63 symmetric taps times the samples, plus 524,288, divided by 1,048,576 with
the floor; and a factory set passes the centre sample unchanged. The delay of R128 and R130: below a fill count of 31 an
intake puts nothing out; the frame put out at an intake is the one taken in 31 intakes earlier, each lane in use with the
lane record and the centre sample taken in with it, a lane not in use 0 flagged LANE_OFF alone (R135). A sample's flags are
its record's, with CLIPPED when its record, the filter or the gain clipped it, and TAIL in a tail flush (R134, R136). A
clipped sample is counted on its lane and raises OUTPUT_CLIP (R134). The frame joins the partial parcel, and as its
sixteenth completes it: the CLEAN parcel joins its queue or is counted as discarded, and the partial parcel is empty again
(R138 to R140). -/
def Obligations.EqualizerSumsItsSymmetricTaps : Prop :=
  (∀ h delay : List Int, h.length = 32 → delay.length = 63 →
    let tap := fun k : Nat => if k < 32 then (h[k]?).getD 0 else (h[62 - k]?).getD 0
    let sum := ((List.range 63).map fun k => tap k * (delay[k]?).getD 0).sum
    1048576 * filterRaw h delay ≤ sum + 524288 ∧ sum + 524288 < 1048576 * filterRaw h delay + 1048576 ∧
    filterRaw flatEq delay = (delay[31]?).getD 0) ∧
  (∀ (d : Side) (a b : LaneIntake) (r : Option FrameRecord) (s : State), (s.eqSides.get d).fill < 31 →
    let t := eqIntake d a b r s
    (t.eqSides.get d).fill = (s.eqSides.get d).fill + 1 ∧ t.partials = s.partials ∧ t.cleanQueues = s.cleanQueues ∧
    t.counters = s.counters ∧ t.flags = s.flags) ∧
  (∀ (d : Side) (a b : LaneIntake) (r : FrameRecord) (more : List (LaneIntake × LaneIntake × Option FrameRecord)) (s : State),
    more.length = 31 →
    let take := fun (u : State) (x : LaneIntake × LaneIntake × Option FrameRecord) => eqIntake d x.1 x.2.1 x.2.2 u
    let before := (more.take 30).foldl take (eqIntake d a b (some r) s)
    let after := more.foldl take (eqIntake d a b (some r) s)
    let centred := fun (l : Lane) (x : LaneIntake) (later : List LaneIntake) (out : SampleOut) =>
      (s.intake.applied.laneEnable.get l = false → out = ⟨0, FlagSet.laneOffOnly⟩) ∧
      (∀ sample record, s.intake.applied.laneEnable.get l = true → x = some (sample, some record) →
        (∀ y ∈ later, y ≠ none) →
        (after.eqLanes.get l).line[31]? = some sample ∧
        out = laneOutput s.eqSets (s.eqSides.get d).flushing (after.eqLanes.get l) record)
    (before.partials.get d).length ≤ 15 →
    ∃ first second : SampleOut,
      let frames := before.partials.get d ++ [⟨first, second, r⟩]
      let clips := fun l : Lane => (l = firstLane d ∧ first.flags.clipped = true) ∨ (l = secondLane d ∧ second.flags.clipped = true)
      (frames.length < 16 → after.partials = before.partials.set d frames ∧ after.cleanQueues = before.cleanQueues) ∧
      (frames.length = 16 → after.partials = before.partials.set d [] ∧
        (s.link.link.d = .up → (before.cleanQueues.get d).length < 4 →
          after.cleanQueues = before.cleanQueues.set d (before.cleanQueues.get d ++ [parcelOfFrames d s frames]) ∧
          after.counters.cleanDiscarded = before.counters.cleanDiscarded) ∧
        (s.link.link.d = .down ∨ 4 ≤ (before.cleanQueues.get d).length →
          after.cleanQueues = before.cleanQueues ∧ after.counters.cleanDiscarded =
            before.counters.cleanDiscarded.set d (countUp (before.counters.cleanDiscarded.get d) 1))) ∧
      (∀ l, after.counters.clippedSamples.get l =
        if clips l then countUp (before.counters.clippedSamples.get l) 1 else before.counters.clippedSamples.get l) ∧
      after.flags = (if ∃ l, clips l then before.flags ||| 0x800 else before.flags) ∧
      centred (firstLane d) a (more.map fun x => x.1) first ∧ centred (secondLane d) b (more.map fun x => x.2.1) second) ∧
  ∀ (sets : Quad (List Int)) (tail : Bool) (q : EqLane) (r : LaneRecord),
    let raw := filterRaw (sets.get r.eqSet) q.line
    let y := max (-8388608) (min 8388607 raw)
    let gained := (y * (r.gain : Int) + 2048) / 4096
    ∃ clipped : Bool, (laneOutput sets tail q r).flags = { r.flags with clipped := clipped, tail := tail } ∧
      (clipped = true ↔ r.clip = true ∨ raw < -8388608 ∨ 8388607 < raw ∨ gained < -8388608 ∨ 8388607 < gained)

/-- The gain stage gives floor((y × g + 2,048) / 4,096) of the equalizer's computed sample, saturated to the sample range:
4,096 is unity, 0 gives 0, and the floor goes toward minus infinity (R133). -/
def Obligations.GainScalesRoundsAndSaturates : Prop :=
  (∀ (sets : Quad (List Int)) (tail : Bool) (q : EqLane) (r : LaneRecord),
    ∃ y z : Int, y = max (-8388608) (min 8388607 (filterRaw (sets.get r.eqSet) q.line)) ∧
      4096 * z ≤ y * r.gain + 2048 ∧ y * r.gain + 2048 < 4096 * z + 4096 ∧
      (laneOutput sets tail q r).sample = max (-8388608) (min 8388607 z) ∧
      (r.gain = 4096 → (laneOutput sets tail q r).sample = y) ∧
      (r.gain = 0 → (laneOutput sets tail q r).sample = 0)) ∧
  gainRaw (-3) 2048 = -1 ∧ gainRaw 3 2048 = 2

/-! ### Damage log and events (Chapter 8) -/

/-- Raising an event sets its flag; a notice with the pass number and the intake position joins the queue when the flag was
clear, the kind's mask bit is on and no notice of the kind waits; nothing else changes (R145, R146). A counter stays at
4,294,967,295 (R150). A cue joins its queue below 16, and a completed CLEAN parcel its side's queue below 4 while Port D is
UP; else it is dropped and counted (R124, R140). A damage record joins the log below 64 records, raises LOG_HIGH as it
brings the log to 48, and asserts the pause request then when pause on log high is on; at 64 it is counted unlogged and
LOG_FULL is raised (R143, R187). -/
def Obligations.EventsRecordsAndReportsAreTaken : Prop :=
  (∀ (k : EventKind) (s : State),
    let noted := s.flags.getLsbD k.code = false ∧ s.settings.noticeMask.getLsbD k.code = true ∧
      ∀ n ∈ s.notices, n.kind ≠ k
    (∀ j : EventKind, (raise k s).flags.getLsbD j.code = (s.flags.getLsbD j.code || (j == k))) ∧
    (noted → (raise k s).notices = s.notices ++ [⟨k, s.intake.passNumber, s.intake.position⟩]) ∧
    (¬ noted → (raise k s).notices = s.notices) ∧
    raise k s = { s with flags := (raise k s).flags, notices := (raise k s).notices }) ∧
  (∀ (c : BitVec 32) (n : Nat), (countUp c n).toNat = min (c.toNat + n) 4294967295) ∧
  (∀ (c : Cue) (s : State), appendCue c s =
    if s.cues.length < 16 then { s with cues := s.cues ++ [c] }
    else { s with counters := { s.counters with cuesDropped := countUp s.counters.cuesDropped 1 } }) ∧
  (∀ (d : Side) (p : CleanParcel) (s : State),
    (s.link.link.d = .up → (s.cleanQueues.get d).length < 4 →
      queueClean d p s = { s with cleanQueues := s.cleanQueues.set d (s.cleanQueues.get d ++ [p]) }) ∧
    (s.link.link.d = .down ∨ 4 ≤ (s.cleanQueues.get d).length →
      queueClean d p s = { s with counters := { s.counters with
        cleanDiscarded := s.counters.cleanDiscarded.set d (countUp (s.counters.cleanDiscarded.get d) 1) } })) ∧
  ∀ (r : DamageRecord) (s : State),
    (s.log.length < 64 → s.log.length ≠ 47 → appendDamage r s = { s with log := s.log ++ [r] }) ∧
    (s.log.length = 47 → ∃ t, appendDamage r s = t ∧
      t = { s with
        log := s.log ++ [r], flags := s.flags ||| 0x004, notices := t.notices
        lines := { s.lines with pauseRequest := s.lines.pauseRequest || s.settings.pauseOnLogHigh } }) ∧
    (64 ≤ s.log.length → ∃ t, appendDamage r s = t ∧
      t = { s with
        flags := s.flags ||| 0x008, notices := t.notices
        counters := { s.counters with unloggedDropouts := countUp s.counters.unloggedDropouts 1 } })

/-! ### The walkers (Chapter 6) -/

/-- The active sets of the intake walker are the THRESHOLD entries that cover its cursor: a seek makes them so, and a move
to the next position keeps them so (R115 to R119, R122), so that the carrier threshold in force on a lane is the covering
entry's, else the side's setting (R82). The active sets of a side's walker are the output entries that cover its cursor: a
seek makes them so, with no cue, and a move keeps them so (R118, R119). A move takes every raw position it passes in
rising order, ends before starts, each in map order: a TIMEBASE edge forces or frees the side's tracker, a NOTE edge makes
a cue with the number of the frame being produced (R50 to R53, R124). Each output frame moves the walker to its output
cursor (R63), and a walker that is not running takes no move (R120). The repair mode, the gain and the EQ set in force on a
lane, and the SKEW parameter of a side, are those of the entry of the class that covers the cursor, else the side's setting,
or none (R94, R122, R123, R132). -/
def Obligations.IntakeWalkerHoldsTheCoveringEntries : Prop :=
  ∀ (es : List MapEntry), (es.map (·.id)).Nodup → (∀ e ∈ es, e.start < e.stop) →
    let exact := fun (w : Walker) => ∀ (l : Lane) (i : Nat),
      i ∈ w.active.get l ↔ ∃ e ∈ es, e.id = i ∧ e.cls = .threshold ∧ e.covers l w.cursor = true
    (∀ p w, exact (intakeSeek es p w) ∧ (intakeSeek es p w).cursor = p ∧ (intakeSeek es p w).running = true) ∧
    (∀ w, w.running = true → exact w →
      exact (intakeWalk es (w.cursor + 1) w) ∧ (intakeWalk es (w.cursor + 1) w).cursor = w.cursor + 1) ∧
    (∀ s l, s.map.entries = es → exact s.map.intakeWalker →
      (∀ e ∈ es, e.cls = .threshold → e.covers l s.map.intakeWalker.cursor = true →
        (∀ f ∈ es, f.cls = .threshold → f.covers l s.map.intakeWalker.cursor = true → f = e) →
        thresholdInForce s l = e.param.toNat) ∧
      ((∀ e ∈ es, e.cls = .threshold → e.covers l s.map.intakeWalker.cursor = false) →
        thresholdInForce s l = s.settings.threshold.get (sideOf l))) ∧
    (∀ d s, s.map.entries = es → s.cues.length ≤ 16 →
      let w := s.map.sideWalker.get d
      let nextAbove := fun x : Nat => (es.find? fun e => walkedOn d e && decide (x < e.start)).map (·.id)
      (∀ b, w.running = false → walkTo d b s = s) ∧
      (∀ b, w.running = true → SideWalkerExact d es w →
        let t := walkTo d b s
        let v := t.map.sideWalker.get d
        let edges := edgesAbove d es w.cursor (b - w.cursor)
        EdgesTaken d edges (edges.filterMap (edgeCue d (s.resamplers.get d).frameNumber)) s t ∧
        SideWalkerExact d es v ∧ v.running = true ∧ v.cursor = max w.cursor b ∧ (w.cursor < b → v.next = nextAbove b)) ∧
      (∀ p,
        let t := seekSide d p s
        let v := t.map.sideWalker.get d
        let covering := es.filter fun e => walkedOn d e && decide (e.start ≤ p) && decide (p < e.stop)
        EdgesTaken d (covering.map fun e => (e, false)) [] s t ∧
        SideWalkerExact d es v ∧ v.running = true ∧ v.cursor = p ∧ v.next = nextAbove p) ∧
      let t := walkTo d ((s.resamplers.get d).readPos / 16777216).toNat s
      (produceFrame d s).map = t.map ∧ (produceFrame d s).trackers = t.trackers ∧ (produceFrame d s).cues = t.cues) ∧
    (∀ d s l, s.map.entries = es → sideOf l = d → SideWalkerExact d es (s.map.sideWalker.get d) →
      let at' := (s.map.sideWalker.get d).cursor
      let covered := fun c : MapClass => ∃ e ∈ es, e.cls = c ∧ e.covers l at' = true
      let only := fun (c : MapClass) (e : MapEntry) => e ∈ es ∧ e.cls = c ∧ e.covers l at' = true ∧
        ∀ f ∈ es, f.cls = c → f.covers l at' = true → f = e
      (∀ e m, only .repair e → [RepairMode.pass, .mute, .hold, .twin][e.param.toNat]? = some m → repairInForce s l = m) ∧
      (¬ covered .repair → repairInForce s l = s.settings.repairMode.get d) ∧
      (∀ e, only .gain e → gainInForce s l = e.param.toNat) ∧
      (¬ covered .gain → gainInForce s l = s.settings.gain.get d) ∧
      (∀ e, only .eqset e → e.param.toNat ≤ 3 → (eqSetInForce s l).val = e.param.toNat) ∧
      (¬ covered .eqset → eqSetInForce s l = s.settings.eqSet.get d) ∧
      (∀ e, l = firstLane d → only .skew e → skewEntry s d = some e.param.toInt) ∧
      (l = firstLane d → ¬ covered .skew → skewEntry s d = none))

/-! ### Invariants -/

/-- Every step keeps the shape of the correction map: at most 512 entries in map order, ids below 512 and all different,
positive lengths, no conflict, no lane covered more than 4 times at any raw position (R104, R106, R110, R111). -/
def Obligations.StepsKeepTheMapShaped : Prop :=
  ∀ s t : State, MapShaped s → step s = .next t → MapShaped t

/-- Every step keeps every queue within the length its rule gives it, and never two notices of one kind (R14, R15, R138,
R140, R142, R146, R147, R149, R159). -/
def Obligations.StepsKeepTheQueuesBounded : Prop :=
  ∀ s t : State, QueuesBounded s → step s = .next t → QueuesBounded t

/-- Every step keeps a pass under PLAY alone, and with none running no expected position, both trackers IDLE and every
walker stopped (R18, R22, R48, R120). -/
def Obligations.StepsKeepPassesCoherent : Prop :=
  ∀ s t : State, PassCoherent s → step s = .next t → PassCoherent t

/-- Every step keeps each side's applied step within the limits of the speed range in force, and at 1.0 in IDLE (R41, R54);
and the skew average and the skew in force within their bounds (R34, R56, R57, R110). -/
def Obligations.StepsKeepTrackersInRange : Prop :=
  (∀ s t : State, SettingsInRange s → StepsInRange s → step s = .next t → StepsInRange t) ∧
  (∀ s t : State, SkewBounded s → step s = .next t → SkewBounded t)

/-- Every step keeps the lane history in its canonical form, and the delays of the equalizers and the tables in use, staged
and stored at their full lengths (R30, R75, R127, R131, R169, R178). -/
def Obligations.StepsKeepStoredDataWhole : Prop :=
  (∀ s t : State, HistoryCanonical s → step s = .next t → HistoryCanonical t) ∧
  (∀ s t : State, DelaysWhole s → step s = .next t → DelaysWhole t) ∧
  (∀ s t : State, TablesWhole s → step s = .next t → TablesWhole t)

/-- Every step keeps every setting, in the table and in every stored profile, at a value of its range or list, and the unit
address, the link-error counts, the trim count and the duties in theirs (9.4, R9, R11, R167, R188, R189). -/
def Obligations.StepsKeepSettingsAndValuesInRange : Prop :=
  (∀ s t : State, SettingsInRange s → step s = .next t → SettingsInRange t) ∧
  (∀ s t : State, ValuesInRange s → step s = .next t → ValuesInRange t)

/-- The state after reset meets every invariant stated here. -/
def Obligations.ResetMeetsTheInvariants : Prop :=
  MapShaped State.reset ∧ QueuesBounded State.reset ∧ PassCoherent State.reset ∧ HistoryCanonical State.reset ∧
  StepsInRange State.reset ∧ SkewBounded State.reset ∧ DelaysWhole State.reset ∧ TablesWhole State.reset ∧
  SettingsInRange State.reset ∧ ValuesInRange State.reset
end

