-- ==== Sys2Proof/Laws/State.lean ====
section
/-! SUPPORT. The small lemmas of the records: reading after writing one port, side, lane or slot, and what each named
update of State leaves as it was, one lemma per field, so that no proof unfolds an update. -/

namespace Sys2Proof

/-! ### One value per port, per side, per number -/

@[simp] theorem PerPort.get_set_same {α : Type} (x : PerPort α) (p : Port) (v : α) : (x.set p v).get p = v := by
  cases p <;> rfl

theorem PerPort.get_set {α : Type} (x : PerPort α) (p q : Port) (v : α) :
    (x.set p v).get q = if q = p then v else x.get q := by
  cases p <;> cases q <;> rfl

@[simp] theorem PerSide.get_set_same {α : Type} (x : PerSide α) (d : Side) (v : α) : (x.set d v).get d = v := by
  cases d <;> rfl

theorem PerSide.get_set {α : Type} (x : PerSide α) (d e : Side) (v : α) :
    (x.set d v).get e = if e = d then v else x.get e := by
  cases d <;> cases e <;> rfl

theorem PerSide.get_modify {α : Type} (x : PerSide α) (d e : Side) (f : α → α) :
    (x.modify d f).get e = if e = d then f (x.get e) else x.get e := by
  cases d <;> cases e <;> rfl

@[simp] theorem PerSide.get_both {α : Type} (v : α) (d : Side) : (PerSide.both v).get d = v := by
  cases d <;> rfl

theorem PerSide.ext_get {α : Type} {x y : PerSide α} (h : ∀ d, x.get d = y.get d) : x = y := by
  cases x; cases y
  have ha := h .A
  have hb := h .B
  simp only [PerSide.get] at ha hb
  subst ha hb
  rfl

@[simp] theorem Quad.get_set_same {α : Type} (x : Quad α) (i : Fin 4) (v : α) : (x.set i v).get i = v := by
  fin_cases i <;> rfl

theorem Quad.get_set {α : Type} (x : Quad α) (i j : Fin 4) (v : α) :
    (x.set i v).get j = if j = i then v else x.get j := by
  fin_cases i <;> fin_cases j <;> rfl

theorem Quad.get_modify {α : Type} (x : Quad α) (i j : Fin 4) (f : α → α) :
    (x.modify i f).get j = if j = i then f (x.get j) else x.get j := by
  fin_cases i <;> fin_cases j <;> rfl

@[simp] theorem Quad.get_fill {α : Type} (v : α) (i : Fin 4) : (Quad.fill v).get i = v := by
  fin_cases i <;> rfl

@[simp] theorem Quad.get_tabulate {α : Type} (f : Fin 4 → α) (i : Fin 4) : (Quad.tabulate f).get i = f i := by
  fin_cases i <;> rfl

theorem Quad.ext_get {α : Type} {x y : Quad α} (h : ∀ i, x.get i = y.get i) : x = y := by
  cases x; cases y
  have h0 := h 0
  have h1 := h 1
  have h2 := h 2
  have h3 := h 3
  simp only [Quad.get] at h0 h1 h2 h3
  subst h0 h1 h2 h3
  rfl

namespace Machine

/-! ### What a fold keeps -/

/-- A projection that every step of a fold keeps, the fold keeps. -/
theorem foldl_keeps {σ β γ : Type} (g : σ → γ) (f : σ → β → σ) (h : ∀ s b, g (f s b) = g s) (bs : List β) (s : σ) :
    g (bs.foldl f s) = g s := by
  induction bs generalizing s with
  | nil => rfl
  | cons b rest ih => rw [List.foldl_cons, ih, h]

/-- A property that every step of a fold keeps, the fold keeps. -/
theorem foldl_preserves {σ β : Type} (P : σ → Prop) (f : σ → β → σ) (h : ∀ s b, P s → P (f s b)) (bs : List β) (s : σ)
    (hs : P s) : P (bs.foldl f s) := by
  induction bs generalizing s with
  | nil => exact hs
  | cons b rest ih => exact ih _ (h _ _ hs)

/-! ### Named updates, field by field -/

@[simp] theorem withCounters_unit (f : Counters → Counters) (s : State) : (withCounters f s).unit = s.unit := rfl
@[simp] theorem withCounters_link (f : Counters → Counters) (s : State) : (withCounters f s).link = s.link := rfl
@[simp] theorem withCounters_intake (f : Counters → Counters) (s : State) : (withCounters f s).intake = s.intake := rfl
@[simp] theorem withCounters_history (f : Counters → Counters) (s : State) : (withCounters f s).history = s.history := rfl
@[simp] theorem withCounters_trackers (f : Counters → Counters) (s : State) : (withCounters f s).trackers = s.trackers := rfl
@[simp] theorem withCounters_resamplers (f : Counters → Counters) (s : State) : (withCounters f s).resamplers = s.resamplers := rfl
@[simp] theorem withCounters_detectors (f : Counters → Counters) (s : State) : (withCounters f s).detectors = s.detectors := rfl
@[simp] theorem withCounters_repairs (f : Counters → Counters) (s : State) : (withCounters f s).repairs = s.repairs := rfl
@[simp] theorem withCounters_eqLanes (f : Counters → Counters) (s : State) : (withCounters f s).eqLanes = s.eqLanes := rfl
@[simp] theorem withCounters_eqSides (f : Counters → Counters) (s : State) : (withCounters f s).eqSides = s.eqSides := rfl
@[simp] theorem withCounters_partials (f : Counters → Counters) (s : State) : (withCounters f s).partials = s.partials := rfl
@[simp] theorem withCounters_cleanQueues (f : Counters → Counters) (s : State) : (withCounters f s).cleanQueues = s.cleanQueues := rfl
@[simp] theorem withCounters_map (f : Counters → Counters) (s : State) : (withCounters f s).map = s.map := rfl
@[simp] theorem withCounters_log (f : Counters → Counters) (s : State) : (withCounters f s).log = s.log := rfl
@[simp] theorem withCounters_flags (f : Counters → Counters) (s : State) : (withCounters f s).flags = s.flags := rfl
@[simp] theorem withCounters_notices (f : Counters → Counters) (s : State) : (withCounters f s).notices = s.notices := rfl
@[simp] theorem withCounters_cues (f : Counters → Counters) (s : State) : (withCounters f s).cues = s.cues := rfl
@[simp] theorem withCounters_arbiter (f : Counters → Counters) (s : State) : (withCounters f s).arbiter = s.arbiter := rfl
@[simp] theorem withCounters_directives (f : Counters → Counters) (s : State) : (withCounters f s).directives = s.directives := rfl
@[simp] theorem withCounters_settings (f : Counters → Counters) (s : State) : (withCounters f s).settings = s.settings := rfl
@[simp] theorem withCounters_stager (f : Counters → Counters) (s : State) : (withCounters f s).stager = s.stager := rfl
@[simp] theorem withCounters_kernel (f : Counters → Counters) (s : State) : (withCounters f s).kernel = s.kernel := rfl
@[simp] theorem withCounters_eqSets (f : Counters → Counters) (s : State) : (withCounters f s).eqSets = s.eqSets := rfl
@[simp] theorem withCounters_store (f : Counters → Counters) (s : State) : (withCounters f s).store = s.store := rfl
@[simp] theorem withCounters_lines (f : Counters → Counters) (s : State) : (withCounters f s).lines = s.lines := rfl
@[simp] theorem withCounters_freeCount (f : Counters → Counters) (s : State) : (withCounters f s).freeCount = s.freeCount := rfl
@[simp] theorem withCounters_pending (f : Counters → Counters) (s : State) : (withCounters f s).pending = s.pending := rfl

@[simp] theorem raise_unit (k : EventKind) (s : State) : (raise k s).unit = s.unit := rfl
@[simp] theorem raise_link (k : EventKind) (s : State) : (raise k s).link = s.link := rfl
@[simp] theorem raise_intake (k : EventKind) (s : State) : (raise k s).intake = s.intake := rfl
@[simp] theorem raise_history (k : EventKind) (s : State) : (raise k s).history = s.history := rfl
@[simp] theorem raise_trackers (k : EventKind) (s : State) : (raise k s).trackers = s.trackers := rfl
@[simp] theorem raise_resamplers (k : EventKind) (s : State) : (raise k s).resamplers = s.resamplers := rfl
@[simp] theorem raise_detectors (k : EventKind) (s : State) : (raise k s).detectors = s.detectors := rfl
@[simp] theorem raise_repairs (k : EventKind) (s : State) : (raise k s).repairs = s.repairs := rfl
@[simp] theorem raise_eqLanes (k : EventKind) (s : State) : (raise k s).eqLanes = s.eqLanes := rfl
@[simp] theorem raise_eqSides (k : EventKind) (s : State) : (raise k s).eqSides = s.eqSides := rfl
@[simp] theorem raise_partials (k : EventKind) (s : State) : (raise k s).partials = s.partials := rfl
@[simp] theorem raise_cleanQueues (k : EventKind) (s : State) : (raise k s).cleanQueues = s.cleanQueues := rfl
@[simp] theorem raise_map (k : EventKind) (s : State) : (raise k s).map = s.map := rfl
@[simp] theorem raise_log (k : EventKind) (s : State) : (raise k s).log = s.log := rfl
@[simp] theorem raise_cues (k : EventKind) (s : State) : (raise k s).cues = s.cues := rfl
@[simp] theorem raise_counters (k : EventKind) (s : State) : (raise k s).counters = s.counters := rfl
@[simp] theorem raise_arbiter (k : EventKind) (s : State) : (raise k s).arbiter = s.arbiter := rfl
@[simp] theorem raise_directives (k : EventKind) (s : State) : (raise k s).directives = s.directives := rfl
@[simp] theorem raise_settings (k : EventKind) (s : State) : (raise k s).settings = s.settings := rfl
@[simp] theorem raise_stager (k : EventKind) (s : State) : (raise k s).stager = s.stager := rfl
@[simp] theorem raise_kernel (k : EventKind) (s : State) : (raise k s).kernel = s.kernel := rfl
@[simp] theorem raise_eqSets (k : EventKind) (s : State) : (raise k s).eqSets = s.eqSets := rfl
@[simp] theorem raise_store (k : EventKind) (s : State) : (raise k s).store = s.store := rfl
@[simp] theorem raise_lines (k : EventKind) (s : State) : (raise k s).lines = s.lines := rfl
@[simp] theorem raise_freeCount (k : EventKind) (s : State) : (raise k s).freeCount = s.freeCount := rfl
@[simp] theorem raise_pending (k : EventKind) (s : State) : (raise k s).pending = s.pending := rfl

@[simp] theorem clearFlags_unit (set : BitVec 12) (s : State) : (clearFlags set s).unit = s.unit := rfl
@[simp] theorem clearFlags_link (set : BitVec 12) (s : State) : (clearFlags set s).link = s.link := rfl
@[simp] theorem clearFlags_intake (set : BitVec 12) (s : State) : (clearFlags set s).intake = s.intake := rfl
@[simp] theorem clearFlags_history (set : BitVec 12) (s : State) : (clearFlags set s).history = s.history := rfl
@[simp] theorem clearFlags_trackers (set : BitVec 12) (s : State) : (clearFlags set s).trackers = s.trackers := rfl
@[simp] theorem clearFlags_resamplers (set : BitVec 12) (s : State) : (clearFlags set s).resamplers = s.resamplers := rfl
@[simp] theorem clearFlags_detectors (set : BitVec 12) (s : State) : (clearFlags set s).detectors = s.detectors := rfl
@[simp] theorem clearFlags_repairs (set : BitVec 12) (s : State) : (clearFlags set s).repairs = s.repairs := rfl
@[simp] theorem clearFlags_eqLanes (set : BitVec 12) (s : State) : (clearFlags set s).eqLanes = s.eqLanes := rfl
@[simp] theorem clearFlags_eqSides (set : BitVec 12) (s : State) : (clearFlags set s).eqSides = s.eqSides := rfl
@[simp] theorem clearFlags_partials (set : BitVec 12) (s : State) : (clearFlags set s).partials = s.partials := rfl
@[simp] theorem clearFlags_cleanQueues (set : BitVec 12) (s : State) : (clearFlags set s).cleanQueues = s.cleanQueues := rfl
@[simp] theorem clearFlags_map (set : BitVec 12) (s : State) : (clearFlags set s).map = s.map := rfl
@[simp] theorem clearFlags_log (set : BitVec 12) (s : State) : (clearFlags set s).log = s.log := rfl
@[simp] theorem clearFlags_notices (set : BitVec 12) (s : State) : (clearFlags set s).notices = s.notices := rfl
@[simp] theorem clearFlags_cues (set : BitVec 12) (s : State) : (clearFlags set s).cues = s.cues := rfl
@[simp] theorem clearFlags_counters (set : BitVec 12) (s : State) : (clearFlags set s).counters = s.counters := rfl
@[simp] theorem clearFlags_arbiter (set : BitVec 12) (s : State) : (clearFlags set s).arbiter = s.arbiter := rfl
@[simp] theorem clearFlags_directives (set : BitVec 12) (s : State) : (clearFlags set s).directives = s.directives := rfl
@[simp] theorem clearFlags_settings (set : BitVec 12) (s : State) : (clearFlags set s).settings = s.settings := rfl
@[simp] theorem clearFlags_stager (set : BitVec 12) (s : State) : (clearFlags set s).stager = s.stager := rfl
@[simp] theorem clearFlags_kernel (set : BitVec 12) (s : State) : (clearFlags set s).kernel = s.kernel := rfl
@[simp] theorem clearFlags_eqSets (set : BitVec 12) (s : State) : (clearFlags set s).eqSets = s.eqSets := rfl
@[simp] theorem clearFlags_store (set : BitVec 12) (s : State) : (clearFlags set s).store = s.store := rfl
@[simp] theorem clearFlags_lines (set : BitVec 12) (s : State) : (clearFlags set s).lines = s.lines := rfl
@[simp] theorem clearFlags_freeCount (set : BitVec 12) (s : State) : (clearFlags set s).freeCount = s.freeCount := rfl
@[simp] theorem clearFlags_pending (set : BitVec 12) (s : State) : (clearFlags set s).pending = s.pending := rfl

@[simp] theorem applyPending_unit (s : State) : (applyPending s).unit = s.unit := rfl
@[simp] theorem applyPending_link (s : State) : (applyPending s).link = s.link := rfl
@[simp] theorem applyPending_history (s : State) : (applyPending s).history = s.history := rfl
@[simp] theorem applyPending_trackers (s : State) : (applyPending s).trackers = s.trackers := rfl
@[simp] theorem applyPending_resamplers (s : State) : (applyPending s).resamplers = s.resamplers := rfl
@[simp] theorem applyPending_detectors (s : State) : (applyPending s).detectors = s.detectors := rfl
@[simp] theorem applyPending_repairs (s : State) : (applyPending s).repairs = s.repairs := rfl
@[simp] theorem applyPending_eqLanes (s : State) : (applyPending s).eqLanes = s.eqLanes := rfl
@[simp] theorem applyPending_eqSides (s : State) : (applyPending s).eqSides = s.eqSides := rfl
@[simp] theorem applyPending_partials (s : State) : (applyPending s).partials = s.partials := rfl
@[simp] theorem applyPending_cleanQueues (s : State) : (applyPending s).cleanQueues = s.cleanQueues := rfl
@[simp] theorem applyPending_map (s : State) : (applyPending s).map = s.map := rfl
@[simp] theorem applyPending_log (s : State) : (applyPending s).log = s.log := rfl
@[simp] theorem applyPending_flags (s : State) : (applyPending s).flags = s.flags := rfl
@[simp] theorem applyPending_notices (s : State) : (applyPending s).notices = s.notices := rfl
@[simp] theorem applyPending_cues (s : State) : (applyPending s).cues = s.cues := rfl
@[simp] theorem applyPending_counters (s : State) : (applyPending s).counters = s.counters := rfl
@[simp] theorem applyPending_arbiter (s : State) : (applyPending s).arbiter = s.arbiter := rfl
@[simp] theorem applyPending_directives (s : State) : (applyPending s).directives = s.directives := rfl
@[simp] theorem applyPending_settings (s : State) : (applyPending s).settings = s.settings := rfl
@[simp] theorem applyPending_stager (s : State) : (applyPending s).stager = s.stager := rfl
@[simp] theorem applyPending_kernel (s : State) : (applyPending s).kernel = s.kernel := rfl
@[simp] theorem applyPending_eqSets (s : State) : (applyPending s).eqSets = s.eqSets := rfl
@[simp] theorem applyPending_store (s : State) : (applyPending s).store = s.store := rfl
@[simp] theorem applyPending_lines (s : State) : (applyPending s).lines = s.lines := rfl
@[simp] theorem applyPending_freeCount (s : State) : (applyPending s).freeCount = s.freeCount := rfl
@[simp] theorem applyPending_pending (s : State) : (applyPending s).pending = s.pending := rfl

@[simp] theorem writeHistory_unit (l : Lane) (pos : Nat) (e : HistEntry) (s : State) : (writeHistory l pos e s).unit = s.unit := rfl
@[simp] theorem writeHistory_link (l : Lane) (pos : Nat) (e : HistEntry) (s : State) : (writeHistory l pos e s).link = s.link := rfl
@[simp] theorem writeHistory_intake (l : Lane) (pos : Nat) (e : HistEntry) (s : State) : (writeHistory l pos e s).intake = s.intake := rfl
@[simp] theorem writeHistory_trackers (l : Lane) (pos : Nat) (e : HistEntry) (s : State) : (writeHistory l pos e s).trackers = s.trackers := rfl
@[simp] theorem writeHistory_resamplers (l : Lane) (pos : Nat) (e : HistEntry) (s : State) : (writeHistory l pos e s).resamplers = s.resamplers := rfl
@[simp] theorem writeHistory_detectors (l : Lane) (pos : Nat) (e : HistEntry) (s : State) : (writeHistory l pos e s).detectors = s.detectors := rfl
@[simp] theorem writeHistory_repairs (l : Lane) (pos : Nat) (e : HistEntry) (s : State) : (writeHistory l pos e s).repairs = s.repairs := rfl
@[simp] theorem writeHistory_eqLanes (l : Lane) (pos : Nat) (e : HistEntry) (s : State) : (writeHistory l pos e s).eqLanes = s.eqLanes := rfl
@[simp] theorem writeHistory_eqSides (l : Lane) (pos : Nat) (e : HistEntry) (s : State) : (writeHistory l pos e s).eqSides = s.eqSides := rfl
@[simp] theorem writeHistory_partials (l : Lane) (pos : Nat) (e : HistEntry) (s : State) : (writeHistory l pos e s).partials = s.partials := rfl
@[simp] theorem writeHistory_cleanQueues (l : Lane) (pos : Nat) (e : HistEntry) (s : State) : (writeHistory l pos e s).cleanQueues = s.cleanQueues := rfl
@[simp] theorem writeHistory_map (l : Lane) (pos : Nat) (e : HistEntry) (s : State) : (writeHistory l pos e s).map = s.map := rfl
@[simp] theorem writeHistory_log (l : Lane) (pos : Nat) (e : HistEntry) (s : State) : (writeHistory l pos e s).log = s.log := rfl
@[simp] theorem writeHistory_flags (l : Lane) (pos : Nat) (e : HistEntry) (s : State) : (writeHistory l pos e s).flags = s.flags := rfl
@[simp] theorem writeHistory_notices (l : Lane) (pos : Nat) (e : HistEntry) (s : State) : (writeHistory l pos e s).notices = s.notices := rfl
@[simp] theorem writeHistory_cues (l : Lane) (pos : Nat) (e : HistEntry) (s : State) : (writeHistory l pos e s).cues = s.cues := rfl
@[simp] theorem writeHistory_counters (l : Lane) (pos : Nat) (e : HistEntry) (s : State) : (writeHistory l pos e s).counters = s.counters := rfl
@[simp] theorem writeHistory_arbiter (l : Lane) (pos : Nat) (e : HistEntry) (s : State) : (writeHistory l pos e s).arbiter = s.arbiter := rfl
@[simp] theorem writeHistory_directives (l : Lane) (pos : Nat) (e : HistEntry) (s : State) : (writeHistory l pos e s).directives = s.directives := rfl
@[simp] theorem writeHistory_settings (l : Lane) (pos : Nat) (e : HistEntry) (s : State) : (writeHistory l pos e s).settings = s.settings := rfl
@[simp] theorem writeHistory_stager (l : Lane) (pos : Nat) (e : HistEntry) (s : State) : (writeHistory l pos e s).stager = s.stager := rfl
@[simp] theorem writeHistory_kernel (l : Lane) (pos : Nat) (e : HistEntry) (s : State) : (writeHistory l pos e s).kernel = s.kernel := rfl
@[simp] theorem writeHistory_eqSets (l : Lane) (pos : Nat) (e : HistEntry) (s : State) : (writeHistory l pos e s).eqSets = s.eqSets := rfl
@[simp] theorem writeHistory_store (l : Lane) (pos : Nat) (e : HistEntry) (s : State) : (writeHistory l pos e s).store = s.store := rfl
@[simp] theorem writeHistory_lines (l : Lane) (pos : Nat) (e : HistEntry) (s : State) : (writeHistory l pos e s).lines = s.lines := rfl
@[simp] theorem writeHistory_freeCount (l : Lane) (pos : Nat) (e : HistEntry) (s : State) : (writeHistory l pos e s).freeCount = s.freeCount := rfl
@[simp] theorem writeHistory_pending (l : Lane) (pos : Nat) (e : HistEntry) (s : State) : (writeHistory l pos e s).pending = s.pending := rfl

@[simp] theorem withTracker_unit (d : Side) (f : Tracker → Tracker) (s : State) : (withTracker d f s).unit = s.unit := rfl
@[simp] theorem withTracker_link (d : Side) (f : Tracker → Tracker) (s : State) : (withTracker d f s).link = s.link := rfl
@[simp] theorem withTracker_intake (d : Side) (f : Tracker → Tracker) (s : State) : (withTracker d f s).intake = s.intake := rfl
@[simp] theorem withTracker_history (d : Side) (f : Tracker → Tracker) (s : State) : (withTracker d f s).history = s.history := rfl
@[simp] theorem withTracker_resamplers (d : Side) (f : Tracker → Tracker) (s : State) : (withTracker d f s).resamplers = s.resamplers := rfl
@[simp] theorem withTracker_detectors (d : Side) (f : Tracker → Tracker) (s : State) : (withTracker d f s).detectors = s.detectors := rfl
@[simp] theorem withTracker_repairs (d : Side) (f : Tracker → Tracker) (s : State) : (withTracker d f s).repairs = s.repairs := rfl
@[simp] theorem withTracker_eqLanes (d : Side) (f : Tracker → Tracker) (s : State) : (withTracker d f s).eqLanes = s.eqLanes := rfl
@[simp] theorem withTracker_eqSides (d : Side) (f : Tracker → Tracker) (s : State) : (withTracker d f s).eqSides = s.eqSides := rfl
@[simp] theorem withTracker_partials (d : Side) (f : Tracker → Tracker) (s : State) : (withTracker d f s).partials = s.partials := rfl
@[simp] theorem withTracker_cleanQueues (d : Side) (f : Tracker → Tracker) (s : State) : (withTracker d f s).cleanQueues = s.cleanQueues := rfl
@[simp] theorem withTracker_map (d : Side) (f : Tracker → Tracker) (s : State) : (withTracker d f s).map = s.map := rfl
@[simp] theorem withTracker_log (d : Side) (f : Tracker → Tracker) (s : State) : (withTracker d f s).log = s.log := rfl
@[simp] theorem withTracker_flags (d : Side) (f : Tracker → Tracker) (s : State) : (withTracker d f s).flags = s.flags := rfl
@[simp] theorem withTracker_notices (d : Side) (f : Tracker → Tracker) (s : State) : (withTracker d f s).notices = s.notices := rfl
@[simp] theorem withTracker_cues (d : Side) (f : Tracker → Tracker) (s : State) : (withTracker d f s).cues = s.cues := rfl
@[simp] theorem withTracker_counters (d : Side) (f : Tracker → Tracker) (s : State) : (withTracker d f s).counters = s.counters := rfl
@[simp] theorem withTracker_arbiter (d : Side) (f : Tracker → Tracker) (s : State) : (withTracker d f s).arbiter = s.arbiter := rfl
@[simp] theorem withTracker_directives (d : Side) (f : Tracker → Tracker) (s : State) : (withTracker d f s).directives = s.directives := rfl
@[simp] theorem withTracker_settings (d : Side) (f : Tracker → Tracker) (s : State) : (withTracker d f s).settings = s.settings := rfl
@[simp] theorem withTracker_stager (d : Side) (f : Tracker → Tracker) (s : State) : (withTracker d f s).stager = s.stager := rfl
@[simp] theorem withTracker_kernel (d : Side) (f : Tracker → Tracker) (s : State) : (withTracker d f s).kernel = s.kernel := rfl
@[simp] theorem withTracker_eqSets (d : Side) (f : Tracker → Tracker) (s : State) : (withTracker d f s).eqSets = s.eqSets := rfl
@[simp] theorem withTracker_store (d : Side) (f : Tracker → Tracker) (s : State) : (withTracker d f s).store = s.store := rfl
@[simp] theorem withTracker_lines (d : Side) (f : Tracker → Tracker) (s : State) : (withTracker d f s).lines = s.lines := rfl
@[simp] theorem withTracker_freeCount (d : Side) (f : Tracker → Tracker) (s : State) : (withTracker d f s).freeCount = s.freeCount := rfl
@[simp] theorem withTracker_pending (d : Side) (f : Tracker → Tracker) (s : State) : (withTracker d f s).pending = s.pending := rfl

@[simp] theorem withSideWalker_unit (d : Side) (f : Walker → Walker) (s : State) : (withSideWalker d f s).unit = s.unit := rfl
@[simp] theorem withSideWalker_link (d : Side) (f : Walker → Walker) (s : State) : (withSideWalker d f s).link = s.link := rfl
@[simp] theorem withSideWalker_intake (d : Side) (f : Walker → Walker) (s : State) : (withSideWalker d f s).intake = s.intake := rfl
@[simp] theorem withSideWalker_history (d : Side) (f : Walker → Walker) (s : State) : (withSideWalker d f s).history = s.history := rfl
@[simp] theorem withSideWalker_trackers (d : Side) (f : Walker → Walker) (s : State) : (withSideWalker d f s).trackers = s.trackers := rfl
@[simp] theorem withSideWalker_resamplers (d : Side) (f : Walker → Walker) (s : State) : (withSideWalker d f s).resamplers = s.resamplers := rfl
@[simp] theorem withSideWalker_detectors (d : Side) (f : Walker → Walker) (s : State) : (withSideWalker d f s).detectors = s.detectors := rfl
@[simp] theorem withSideWalker_repairs (d : Side) (f : Walker → Walker) (s : State) : (withSideWalker d f s).repairs = s.repairs := rfl
@[simp] theorem withSideWalker_eqLanes (d : Side) (f : Walker → Walker) (s : State) : (withSideWalker d f s).eqLanes = s.eqLanes := rfl
@[simp] theorem withSideWalker_eqSides (d : Side) (f : Walker → Walker) (s : State) : (withSideWalker d f s).eqSides = s.eqSides := rfl
@[simp] theorem withSideWalker_partials (d : Side) (f : Walker → Walker) (s : State) : (withSideWalker d f s).partials = s.partials := rfl
@[simp] theorem withSideWalker_cleanQueues (d : Side) (f : Walker → Walker) (s : State) : (withSideWalker d f s).cleanQueues = s.cleanQueues := rfl
@[simp] theorem withSideWalker_log (d : Side) (f : Walker → Walker) (s : State) : (withSideWalker d f s).log = s.log := rfl
@[simp] theorem withSideWalker_flags (d : Side) (f : Walker → Walker) (s : State) : (withSideWalker d f s).flags = s.flags := rfl
@[simp] theorem withSideWalker_notices (d : Side) (f : Walker → Walker) (s : State) : (withSideWalker d f s).notices = s.notices := rfl
@[simp] theorem withSideWalker_cues (d : Side) (f : Walker → Walker) (s : State) : (withSideWalker d f s).cues = s.cues := rfl
@[simp] theorem withSideWalker_counters (d : Side) (f : Walker → Walker) (s : State) : (withSideWalker d f s).counters = s.counters := rfl
@[simp] theorem withSideWalker_arbiter (d : Side) (f : Walker → Walker) (s : State) : (withSideWalker d f s).arbiter = s.arbiter := rfl
@[simp] theorem withSideWalker_directives (d : Side) (f : Walker → Walker) (s : State) : (withSideWalker d f s).directives = s.directives := rfl
@[simp] theorem withSideWalker_settings (d : Side) (f : Walker → Walker) (s : State) : (withSideWalker d f s).settings = s.settings := rfl
@[simp] theorem withSideWalker_stager (d : Side) (f : Walker → Walker) (s : State) : (withSideWalker d f s).stager = s.stager := rfl
@[simp] theorem withSideWalker_kernel (d : Side) (f : Walker → Walker) (s : State) : (withSideWalker d f s).kernel = s.kernel := rfl
@[simp] theorem withSideWalker_eqSets (d : Side) (f : Walker → Walker) (s : State) : (withSideWalker d f s).eqSets = s.eqSets := rfl
@[simp] theorem withSideWalker_store (d : Side) (f : Walker → Walker) (s : State) : (withSideWalker d f s).store = s.store := rfl
@[simp] theorem withSideWalker_lines (d : Side) (f : Walker → Walker) (s : State) : (withSideWalker d f s).lines = s.lines := rfl
@[simp] theorem withSideWalker_freeCount (d : Side) (f : Walker → Walker) (s : State) : (withSideWalker d f s).freeCount = s.freeCount := rfl
@[simp] theorem withSideWalker_pending (d : Side) (f : Walker → Walker) (s : State) : (withSideWalker d f s).pending = s.pending := rfl

@[simp] theorem withIntakeWalker_unit (f : Walker → Walker) (s : State) : (withIntakeWalker f s).unit = s.unit := rfl
@[simp] theorem withIntakeWalker_link (f : Walker → Walker) (s : State) : (withIntakeWalker f s).link = s.link := rfl
@[simp] theorem withIntakeWalker_intake (f : Walker → Walker) (s : State) : (withIntakeWalker f s).intake = s.intake := rfl
@[simp] theorem withIntakeWalker_history (f : Walker → Walker) (s : State) : (withIntakeWalker f s).history = s.history := rfl
@[simp] theorem withIntakeWalker_trackers (f : Walker → Walker) (s : State) : (withIntakeWalker f s).trackers = s.trackers := rfl
@[simp] theorem withIntakeWalker_resamplers (f : Walker → Walker) (s : State) : (withIntakeWalker f s).resamplers = s.resamplers := rfl
@[simp] theorem withIntakeWalker_detectors (f : Walker → Walker) (s : State) : (withIntakeWalker f s).detectors = s.detectors := rfl
@[simp] theorem withIntakeWalker_repairs (f : Walker → Walker) (s : State) : (withIntakeWalker f s).repairs = s.repairs := rfl
@[simp] theorem withIntakeWalker_eqLanes (f : Walker → Walker) (s : State) : (withIntakeWalker f s).eqLanes = s.eqLanes := rfl
@[simp] theorem withIntakeWalker_eqSides (f : Walker → Walker) (s : State) : (withIntakeWalker f s).eqSides = s.eqSides := rfl
@[simp] theorem withIntakeWalker_partials (f : Walker → Walker) (s : State) : (withIntakeWalker f s).partials = s.partials := rfl
@[simp] theorem withIntakeWalker_cleanQueues (f : Walker → Walker) (s : State) : (withIntakeWalker f s).cleanQueues = s.cleanQueues := rfl
@[simp] theorem withIntakeWalker_log (f : Walker → Walker) (s : State) : (withIntakeWalker f s).log = s.log := rfl
@[simp] theorem withIntakeWalker_flags (f : Walker → Walker) (s : State) : (withIntakeWalker f s).flags = s.flags := rfl
@[simp] theorem withIntakeWalker_notices (f : Walker → Walker) (s : State) : (withIntakeWalker f s).notices = s.notices := rfl
@[simp] theorem withIntakeWalker_cues (f : Walker → Walker) (s : State) : (withIntakeWalker f s).cues = s.cues := rfl
@[simp] theorem withIntakeWalker_counters (f : Walker → Walker) (s : State) : (withIntakeWalker f s).counters = s.counters := rfl
@[simp] theorem withIntakeWalker_arbiter (f : Walker → Walker) (s : State) : (withIntakeWalker f s).arbiter = s.arbiter := rfl
@[simp] theorem withIntakeWalker_directives (f : Walker → Walker) (s : State) : (withIntakeWalker f s).directives = s.directives := rfl
@[simp] theorem withIntakeWalker_settings (f : Walker → Walker) (s : State) : (withIntakeWalker f s).settings = s.settings := rfl
@[simp] theorem withIntakeWalker_stager (f : Walker → Walker) (s : State) : (withIntakeWalker f s).stager = s.stager := rfl
@[simp] theorem withIntakeWalker_kernel (f : Walker → Walker) (s : State) : (withIntakeWalker f s).kernel = s.kernel := rfl
@[simp] theorem withIntakeWalker_eqSets (f : Walker → Walker) (s : State) : (withIntakeWalker f s).eqSets = s.eqSets := rfl
@[simp] theorem withIntakeWalker_store (f : Walker → Walker) (s : State) : (withIntakeWalker f s).store = s.store := rfl
@[simp] theorem withIntakeWalker_lines (f : Walker → Walker) (s : State) : (withIntakeWalker f s).lines = s.lines := rfl
@[simp] theorem withIntakeWalker_freeCount (f : Walker → Walker) (s : State) : (withIntakeWalker f s).freeCount = s.freeCount := rfl
@[simp] theorem withIntakeWalker_pending (f : Walker → Walker) (s : State) : (withIntakeWalker f s).pending = s.pending := rfl

@[simp] theorem withResampler_unit (d : Side) (f : Resampler → Resampler) (s : State) : (withResampler d f s).unit = s.unit := rfl
@[simp] theorem withResampler_link (d : Side) (f : Resampler → Resampler) (s : State) : (withResampler d f s).link = s.link := rfl
@[simp] theorem withResampler_intake (d : Side) (f : Resampler → Resampler) (s : State) : (withResampler d f s).intake = s.intake := rfl
@[simp] theorem withResampler_history (d : Side) (f : Resampler → Resampler) (s : State) : (withResampler d f s).history = s.history := rfl
@[simp] theorem withResampler_trackers (d : Side) (f : Resampler → Resampler) (s : State) : (withResampler d f s).trackers = s.trackers := rfl
@[simp] theorem withResampler_detectors (d : Side) (f : Resampler → Resampler) (s : State) : (withResampler d f s).detectors = s.detectors := rfl
@[simp] theorem withResampler_repairs (d : Side) (f : Resampler → Resampler) (s : State) : (withResampler d f s).repairs = s.repairs := rfl
@[simp] theorem withResampler_eqLanes (d : Side) (f : Resampler → Resampler) (s : State) : (withResampler d f s).eqLanes = s.eqLanes := rfl
@[simp] theorem withResampler_eqSides (d : Side) (f : Resampler → Resampler) (s : State) : (withResampler d f s).eqSides = s.eqSides := rfl
@[simp] theorem withResampler_partials (d : Side) (f : Resampler → Resampler) (s : State) : (withResampler d f s).partials = s.partials := rfl
@[simp] theorem withResampler_cleanQueues (d : Side) (f : Resampler → Resampler) (s : State) : (withResampler d f s).cleanQueues = s.cleanQueues := rfl
@[simp] theorem withResampler_map (d : Side) (f : Resampler → Resampler) (s : State) : (withResampler d f s).map = s.map := rfl
@[simp] theorem withResampler_log (d : Side) (f : Resampler → Resampler) (s : State) : (withResampler d f s).log = s.log := rfl
@[simp] theorem withResampler_flags (d : Side) (f : Resampler → Resampler) (s : State) : (withResampler d f s).flags = s.flags := rfl
@[simp] theorem withResampler_notices (d : Side) (f : Resampler → Resampler) (s : State) : (withResampler d f s).notices = s.notices := rfl
@[simp] theorem withResampler_cues (d : Side) (f : Resampler → Resampler) (s : State) : (withResampler d f s).cues = s.cues := rfl
@[simp] theorem withResampler_counters (d : Side) (f : Resampler → Resampler) (s : State) : (withResampler d f s).counters = s.counters := rfl
@[simp] theorem withResampler_arbiter (d : Side) (f : Resampler → Resampler) (s : State) : (withResampler d f s).arbiter = s.arbiter := rfl
@[simp] theorem withResampler_directives (d : Side) (f : Resampler → Resampler) (s : State) : (withResampler d f s).directives = s.directives := rfl
@[simp] theorem withResampler_settings (d : Side) (f : Resampler → Resampler) (s : State) : (withResampler d f s).settings = s.settings := rfl
@[simp] theorem withResampler_stager (d : Side) (f : Resampler → Resampler) (s : State) : (withResampler d f s).stager = s.stager := rfl
@[simp] theorem withResampler_kernel (d : Side) (f : Resampler → Resampler) (s : State) : (withResampler d f s).kernel = s.kernel := rfl
@[simp] theorem withResampler_eqSets (d : Side) (f : Resampler → Resampler) (s : State) : (withResampler d f s).eqSets = s.eqSets := rfl
@[simp] theorem withResampler_store (d : Side) (f : Resampler → Resampler) (s : State) : (withResampler d f s).store = s.store := rfl
@[simp] theorem withResampler_lines (d : Side) (f : Resampler → Resampler) (s : State) : (withResampler d f s).lines = s.lines := rfl
@[simp] theorem withResampler_freeCount (d : Side) (f : Resampler → Resampler) (s : State) : (withResampler d f s).freeCount = s.freeCount := rfl
@[simp] theorem withResampler_pending (d : Side) (f : Resampler → Resampler) (s : State) : (withResampler d f s).pending = s.pending := rfl

@[simp] theorem setFlushing_unit (d : Side) (b : Bool) (s : State) : (setFlushing d b s).unit = s.unit := rfl
@[simp] theorem setFlushing_link (d : Side) (b : Bool) (s : State) : (setFlushing d b s).link = s.link := rfl
@[simp] theorem setFlushing_intake (d : Side) (b : Bool) (s : State) : (setFlushing d b s).intake = s.intake := rfl
@[simp] theorem setFlushing_history (d : Side) (b : Bool) (s : State) : (setFlushing d b s).history = s.history := rfl
@[simp] theorem setFlushing_trackers (d : Side) (b : Bool) (s : State) : (setFlushing d b s).trackers = s.trackers := rfl
@[simp] theorem setFlushing_resamplers (d : Side) (b : Bool) (s : State) : (setFlushing d b s).resamplers = s.resamplers := rfl
@[simp] theorem setFlushing_detectors (d : Side) (b : Bool) (s : State) : (setFlushing d b s).detectors = s.detectors := rfl
@[simp] theorem setFlushing_repairs (d : Side) (b : Bool) (s : State) : (setFlushing d b s).repairs = s.repairs := rfl
@[simp] theorem setFlushing_eqLanes (d : Side) (b : Bool) (s : State) : (setFlushing d b s).eqLanes = s.eqLanes := rfl
@[simp] theorem setFlushing_partials (d : Side) (b : Bool) (s : State) : (setFlushing d b s).partials = s.partials := rfl
@[simp] theorem setFlushing_cleanQueues (d : Side) (b : Bool) (s : State) : (setFlushing d b s).cleanQueues = s.cleanQueues := rfl
@[simp] theorem setFlushing_map (d : Side) (b : Bool) (s : State) : (setFlushing d b s).map = s.map := rfl
@[simp] theorem setFlushing_log (d : Side) (b : Bool) (s : State) : (setFlushing d b s).log = s.log := rfl
@[simp] theorem setFlushing_flags (d : Side) (b : Bool) (s : State) : (setFlushing d b s).flags = s.flags := rfl
@[simp] theorem setFlushing_notices (d : Side) (b : Bool) (s : State) : (setFlushing d b s).notices = s.notices := rfl
@[simp] theorem setFlushing_cues (d : Side) (b : Bool) (s : State) : (setFlushing d b s).cues = s.cues := rfl
@[simp] theorem setFlushing_counters (d : Side) (b : Bool) (s : State) : (setFlushing d b s).counters = s.counters := rfl
@[simp] theorem setFlushing_arbiter (d : Side) (b : Bool) (s : State) : (setFlushing d b s).arbiter = s.arbiter := rfl
@[simp] theorem setFlushing_directives (d : Side) (b : Bool) (s : State) : (setFlushing d b s).directives = s.directives := rfl
@[simp] theorem setFlushing_settings (d : Side) (b : Bool) (s : State) : (setFlushing d b s).settings = s.settings := rfl
@[simp] theorem setFlushing_stager (d : Side) (b : Bool) (s : State) : (setFlushing d b s).stager = s.stager := rfl
@[simp] theorem setFlushing_kernel (d : Side) (b : Bool) (s : State) : (setFlushing d b s).kernel = s.kernel := rfl
@[simp] theorem setFlushing_eqSets (d : Side) (b : Bool) (s : State) : (setFlushing d b s).eqSets = s.eqSets := rfl
@[simp] theorem setFlushing_store (d : Side) (b : Bool) (s : State) : (setFlushing d b s).store = s.store := rfl
@[simp] theorem setFlushing_lines (d : Side) (b : Bool) (s : State) : (setFlushing d b s).lines = s.lines := rfl
@[simp] theorem setFlushing_freeCount (d : Side) (b : Bool) (s : State) : (setFlushing d b s).freeCount = s.freeCount := rfl
@[simp] theorem setFlushing_pending (d : Side) (b : Bool) (s : State) : (setFlushing d b s).pending = s.pending := rfl

@[simp] theorem stopWalkers_unit (s : State) : (stopWalkers s).unit = s.unit := rfl
@[simp] theorem stopWalkers_link (s : State) : (stopWalkers s).link = s.link := rfl
@[simp] theorem stopWalkers_intake (s : State) : (stopWalkers s).intake = s.intake := rfl
@[simp] theorem stopWalkers_history (s : State) : (stopWalkers s).history = s.history := rfl
@[simp] theorem stopWalkers_trackers (s : State) : (stopWalkers s).trackers = s.trackers := rfl
@[simp] theorem stopWalkers_resamplers (s : State) : (stopWalkers s).resamplers = s.resamplers := rfl
@[simp] theorem stopWalkers_detectors (s : State) : (stopWalkers s).detectors = s.detectors := rfl
@[simp] theorem stopWalkers_repairs (s : State) : (stopWalkers s).repairs = s.repairs := rfl
@[simp] theorem stopWalkers_eqLanes (s : State) : (stopWalkers s).eqLanes = s.eqLanes := rfl
@[simp] theorem stopWalkers_eqSides (s : State) : (stopWalkers s).eqSides = s.eqSides := rfl
@[simp] theorem stopWalkers_partials (s : State) : (stopWalkers s).partials = s.partials := rfl
@[simp] theorem stopWalkers_cleanQueues (s : State) : (stopWalkers s).cleanQueues = s.cleanQueues := rfl
@[simp] theorem stopWalkers_log (s : State) : (stopWalkers s).log = s.log := rfl
@[simp] theorem stopWalkers_flags (s : State) : (stopWalkers s).flags = s.flags := rfl
@[simp] theorem stopWalkers_notices (s : State) : (stopWalkers s).notices = s.notices := rfl
@[simp] theorem stopWalkers_cues (s : State) : (stopWalkers s).cues = s.cues := rfl
@[simp] theorem stopWalkers_counters (s : State) : (stopWalkers s).counters = s.counters := rfl
@[simp] theorem stopWalkers_arbiter (s : State) : (stopWalkers s).arbiter = s.arbiter := rfl
@[simp] theorem stopWalkers_directives (s : State) : (stopWalkers s).directives = s.directives := rfl
@[simp] theorem stopWalkers_settings (s : State) : (stopWalkers s).settings = s.settings := rfl
@[simp] theorem stopWalkers_stager (s : State) : (stopWalkers s).stager = s.stager := rfl
@[simp] theorem stopWalkers_kernel (s : State) : (stopWalkers s).kernel = s.kernel := rfl
@[simp] theorem stopWalkers_eqSets (s : State) : (stopWalkers s).eqSets = s.eqSets := rfl
@[simp] theorem stopWalkers_store (s : State) : (stopWalkers s).store = s.store := rfl
@[simp] theorem stopWalkers_lines (s : State) : (stopWalkers s).lines = s.lines := rfl
@[simp] theorem stopWalkers_freeCount (s : State) : (stopWalkers s).freeCount = s.freeCount := rfl
@[simp] theorem stopWalkers_pending (s : State) : (stopWalkers s).pending = s.pending := rfl

@[simp] theorem setEntries_unit (es : List MapEntry) (s : State) : (setEntries es s).unit = s.unit := rfl
@[simp] theorem setEntries_link (es : List MapEntry) (s : State) : (setEntries es s).link = s.link := rfl
@[simp] theorem setEntries_intake (es : List MapEntry) (s : State) : (setEntries es s).intake = s.intake := rfl
@[simp] theorem setEntries_history (es : List MapEntry) (s : State) : (setEntries es s).history = s.history := rfl
@[simp] theorem setEntries_trackers (es : List MapEntry) (s : State) : (setEntries es s).trackers = s.trackers := rfl
@[simp] theorem setEntries_resamplers (es : List MapEntry) (s : State) : (setEntries es s).resamplers = s.resamplers := rfl
@[simp] theorem setEntries_detectors (es : List MapEntry) (s : State) : (setEntries es s).detectors = s.detectors := rfl
@[simp] theorem setEntries_repairs (es : List MapEntry) (s : State) : (setEntries es s).repairs = s.repairs := rfl
@[simp] theorem setEntries_eqLanes (es : List MapEntry) (s : State) : (setEntries es s).eqLanes = s.eqLanes := rfl
@[simp] theorem setEntries_eqSides (es : List MapEntry) (s : State) : (setEntries es s).eqSides = s.eqSides := rfl
@[simp] theorem setEntries_partials (es : List MapEntry) (s : State) : (setEntries es s).partials = s.partials := rfl
@[simp] theorem setEntries_cleanQueues (es : List MapEntry) (s : State) : (setEntries es s).cleanQueues = s.cleanQueues := rfl
@[simp] theorem setEntries_log (es : List MapEntry) (s : State) : (setEntries es s).log = s.log := rfl
@[simp] theorem setEntries_flags (es : List MapEntry) (s : State) : (setEntries es s).flags = s.flags := rfl
@[simp] theorem setEntries_notices (es : List MapEntry) (s : State) : (setEntries es s).notices = s.notices := rfl
@[simp] theorem setEntries_cues (es : List MapEntry) (s : State) : (setEntries es s).cues = s.cues := rfl
@[simp] theorem setEntries_counters (es : List MapEntry) (s : State) : (setEntries es s).counters = s.counters := rfl
@[simp] theorem setEntries_arbiter (es : List MapEntry) (s : State) : (setEntries es s).arbiter = s.arbiter := rfl
@[simp] theorem setEntries_directives (es : List MapEntry) (s : State) : (setEntries es s).directives = s.directives := rfl
@[simp] theorem setEntries_settings (es : List MapEntry) (s : State) : (setEntries es s).settings = s.settings := rfl
@[simp] theorem setEntries_stager (es : List MapEntry) (s : State) : (setEntries es s).stager = s.stager := rfl
@[simp] theorem setEntries_kernel (es : List MapEntry) (s : State) : (setEntries es s).kernel = s.kernel := rfl
@[simp] theorem setEntries_eqSets (es : List MapEntry) (s : State) : (setEntries es s).eqSets = s.eqSets := rfl
@[simp] theorem setEntries_store (es : List MapEntry) (s : State) : (setEntries es s).store = s.store := rfl
@[simp] theorem setEntries_lines (es : List MapEntry) (s : State) : (setEntries es s).lines = s.lines := rfl
@[simp] theorem setEntries_freeCount (es : List MapEntry) (s : State) : (setEntries es s).freeCount = s.freeCount := rfl
@[simp] theorem setEntries_pending (es : List MapEntry) (s : State) : (setEntries es s).pending = s.pending := rfl

@[simp] theorem restartTrim_unit (s : State) : (restartTrim s).unit = s.unit := rfl
@[simp] theorem restartTrim_link (s : State) : (restartTrim s).link = s.link := rfl
@[simp] theorem restartTrim_intake (s : State) : (restartTrim s).intake = s.intake := rfl
@[simp] theorem restartTrim_history (s : State) : (restartTrim s).history = s.history := rfl
@[simp] theorem restartTrim_trackers (s : State) : (restartTrim s).trackers = s.trackers := rfl
@[simp] theorem restartTrim_resamplers (s : State) : (restartTrim s).resamplers = s.resamplers := rfl
@[simp] theorem restartTrim_detectors (s : State) : (restartTrim s).detectors = s.detectors := rfl
@[simp] theorem restartTrim_repairs (s : State) : (restartTrim s).repairs = s.repairs := rfl
@[simp] theorem restartTrim_eqLanes (s : State) : (restartTrim s).eqLanes = s.eqLanes := rfl
@[simp] theorem restartTrim_eqSides (s : State) : (restartTrim s).eqSides = s.eqSides := rfl
@[simp] theorem restartTrim_partials (s : State) : (restartTrim s).partials = s.partials := rfl
@[simp] theorem restartTrim_cleanQueues (s : State) : (restartTrim s).cleanQueues = s.cleanQueues := rfl
@[simp] theorem restartTrim_map (s : State) : (restartTrim s).map = s.map := rfl
@[simp] theorem restartTrim_log (s : State) : (restartTrim s).log = s.log := rfl
@[simp] theorem restartTrim_flags (s : State) : (restartTrim s).flags = s.flags := rfl
@[simp] theorem restartTrim_notices (s : State) : (restartTrim s).notices = s.notices := rfl
@[simp] theorem restartTrim_cues (s : State) : (restartTrim s).cues = s.cues := rfl
@[simp] theorem restartTrim_counters (s : State) : (restartTrim s).counters = s.counters := rfl
@[simp] theorem restartTrim_arbiter (s : State) : (restartTrim s).arbiter = s.arbiter := rfl
@[simp] theorem restartTrim_directives (s : State) : (restartTrim s).directives = s.directives := rfl
@[simp] theorem restartTrim_settings (s : State) : (restartTrim s).settings = s.settings := rfl
@[simp] theorem restartTrim_stager (s : State) : (restartTrim s).stager = s.stager := rfl
@[simp] theorem restartTrim_kernel (s : State) : (restartTrim s).kernel = s.kernel := rfl
@[simp] theorem restartTrim_eqSets (s : State) : (restartTrim s).eqSets = s.eqSets := rfl
@[simp] theorem restartTrim_store (s : State) : (restartTrim s).store = s.store := rfl
@[simp] theorem restartTrim_freeCount (s : State) : (restartTrim s).freeCount = s.freeCount := rfl
@[simp] theorem restartTrim_pending (s : State) : (restartTrim s).pending = s.pending := rfl

@[simp] theorem withStager_unit (f : Stager → Stager) (s : State) : (withStager f s).unit = s.unit := rfl
@[simp] theorem withStager_link (f : Stager → Stager) (s : State) : (withStager f s).link = s.link := rfl
@[simp] theorem withStager_intake (f : Stager → Stager) (s : State) : (withStager f s).intake = s.intake := rfl
@[simp] theorem withStager_history (f : Stager → Stager) (s : State) : (withStager f s).history = s.history := rfl
@[simp] theorem withStager_trackers (f : Stager → Stager) (s : State) : (withStager f s).trackers = s.trackers := rfl
@[simp] theorem withStager_resamplers (f : Stager → Stager) (s : State) : (withStager f s).resamplers = s.resamplers := rfl
@[simp] theorem withStager_detectors (f : Stager → Stager) (s : State) : (withStager f s).detectors = s.detectors := rfl
@[simp] theorem withStager_repairs (f : Stager → Stager) (s : State) : (withStager f s).repairs = s.repairs := rfl
@[simp] theorem withStager_eqLanes (f : Stager → Stager) (s : State) : (withStager f s).eqLanes = s.eqLanes := rfl
@[simp] theorem withStager_eqSides (f : Stager → Stager) (s : State) : (withStager f s).eqSides = s.eqSides := rfl
@[simp] theorem withStager_partials (f : Stager → Stager) (s : State) : (withStager f s).partials = s.partials := rfl
@[simp] theorem withStager_cleanQueues (f : Stager → Stager) (s : State) : (withStager f s).cleanQueues = s.cleanQueues := rfl
@[simp] theorem withStager_map (f : Stager → Stager) (s : State) : (withStager f s).map = s.map := rfl
@[simp] theorem withStager_log (f : Stager → Stager) (s : State) : (withStager f s).log = s.log := rfl
@[simp] theorem withStager_flags (f : Stager → Stager) (s : State) : (withStager f s).flags = s.flags := rfl
@[simp] theorem withStager_notices (f : Stager → Stager) (s : State) : (withStager f s).notices = s.notices := rfl
@[simp] theorem withStager_cues (f : Stager → Stager) (s : State) : (withStager f s).cues = s.cues := rfl
@[simp] theorem withStager_counters (f : Stager → Stager) (s : State) : (withStager f s).counters = s.counters := rfl
@[simp] theorem withStager_arbiter (f : Stager → Stager) (s : State) : (withStager f s).arbiter = s.arbiter := rfl
@[simp] theorem withStager_directives (f : Stager → Stager) (s : State) : (withStager f s).directives = s.directives := rfl
@[simp] theorem withStager_settings (f : Stager → Stager) (s : State) : (withStager f s).settings = s.settings := rfl
@[simp] theorem withStager_kernel (f : Stager → Stager) (s : State) : (withStager f s).kernel = s.kernel := rfl
@[simp] theorem withStager_eqSets (f : Stager → Stager) (s : State) : (withStager f s).eqSets = s.eqSets := rfl
@[simp] theorem withStager_store (f : Stager → Stager) (s : State) : (withStager f s).store = s.store := rfl
@[simp] theorem withStager_lines (f : Stager → Stager) (s : State) : (withStager f s).lines = s.lines := rfl
@[simp] theorem withStager_freeCount (f : Stager → Stager) (s : State) : (withStager f s).freeCount = s.freeCount := rfl
@[simp] theorem withStager_pending (f : Stager → Stager) (s : State) : (withStager f s).pending = s.pending := rfl

@[simp] theorem abandonLoad_unit (s : State) : (abandonLoad s).unit = s.unit := rfl
@[simp] theorem abandonLoad_link (s : State) : (abandonLoad s).link = s.link := rfl
@[simp] theorem abandonLoad_intake (s : State) : (abandonLoad s).intake = s.intake := rfl
@[simp] theorem abandonLoad_history (s : State) : (abandonLoad s).history = s.history := rfl
@[simp] theorem abandonLoad_trackers (s : State) : (abandonLoad s).trackers = s.trackers := rfl
@[simp] theorem abandonLoad_resamplers (s : State) : (abandonLoad s).resamplers = s.resamplers := rfl
@[simp] theorem abandonLoad_detectors (s : State) : (abandonLoad s).detectors = s.detectors := rfl
@[simp] theorem abandonLoad_repairs (s : State) : (abandonLoad s).repairs = s.repairs := rfl
@[simp] theorem abandonLoad_eqLanes (s : State) : (abandonLoad s).eqLanes = s.eqLanes := rfl
@[simp] theorem abandonLoad_eqSides (s : State) : (abandonLoad s).eqSides = s.eqSides := rfl
@[simp] theorem abandonLoad_partials (s : State) : (abandonLoad s).partials = s.partials := rfl
@[simp] theorem abandonLoad_cleanQueues (s : State) : (abandonLoad s).cleanQueues = s.cleanQueues := rfl
@[simp] theorem abandonLoad_map (s : State) : (abandonLoad s).map = s.map := rfl
@[simp] theorem abandonLoad_log (s : State) : (abandonLoad s).log = s.log := rfl
@[simp] theorem abandonLoad_flags (s : State) : (abandonLoad s).flags = s.flags := rfl
@[simp] theorem abandonLoad_notices (s : State) : (abandonLoad s).notices = s.notices := rfl
@[simp] theorem abandonLoad_cues (s : State) : (abandonLoad s).cues = s.cues := rfl
@[simp] theorem abandonLoad_counters (s : State) : (abandonLoad s).counters = s.counters := rfl
@[simp] theorem abandonLoad_arbiter (s : State) : (abandonLoad s).arbiter = s.arbiter := rfl
@[simp] theorem abandonLoad_directives (s : State) : (abandonLoad s).directives = s.directives := rfl
@[simp] theorem abandonLoad_settings (s : State) : (abandonLoad s).settings = s.settings := rfl
@[simp] theorem abandonLoad_kernel (s : State) : (abandonLoad s).kernel = s.kernel := rfl
@[simp] theorem abandonLoad_eqSets (s : State) : (abandonLoad s).eqSets = s.eqSets := rfl
@[simp] theorem abandonLoad_store (s : State) : (abandonLoad s).store = s.store := rfl
@[simp] theorem abandonLoad_lines (s : State) : (abandonLoad s).lines = s.lines := rfl
@[simp] theorem abandonLoad_freeCount (s : State) : (abandonLoad s).freeCount = s.freeCount := rfl
@[simp] theorem abandonLoad_pending (s : State) : (abandonLoad s).pending = s.pending := rfl

@[simp] theorem withStore_unit (f : ProfileStore → ProfileStore) (s : State) : (withStore f s).unit = s.unit := rfl
@[simp] theorem withStore_link (f : ProfileStore → ProfileStore) (s : State) : (withStore f s).link = s.link := rfl
@[simp] theorem withStore_intake (f : ProfileStore → ProfileStore) (s : State) : (withStore f s).intake = s.intake := rfl
@[simp] theorem withStore_history (f : ProfileStore → ProfileStore) (s : State) : (withStore f s).history = s.history := rfl
@[simp] theorem withStore_trackers (f : ProfileStore → ProfileStore) (s : State) : (withStore f s).trackers = s.trackers := rfl
@[simp] theorem withStore_resamplers (f : ProfileStore → ProfileStore) (s : State) : (withStore f s).resamplers = s.resamplers := rfl
@[simp] theorem withStore_detectors (f : ProfileStore → ProfileStore) (s : State) : (withStore f s).detectors = s.detectors := rfl
@[simp] theorem withStore_repairs (f : ProfileStore → ProfileStore) (s : State) : (withStore f s).repairs = s.repairs := rfl
@[simp] theorem withStore_eqLanes (f : ProfileStore → ProfileStore) (s : State) : (withStore f s).eqLanes = s.eqLanes := rfl
@[simp] theorem withStore_eqSides (f : ProfileStore → ProfileStore) (s : State) : (withStore f s).eqSides = s.eqSides := rfl
@[simp] theorem withStore_partials (f : ProfileStore → ProfileStore) (s : State) : (withStore f s).partials = s.partials := rfl
@[simp] theorem withStore_cleanQueues (f : ProfileStore → ProfileStore) (s : State) : (withStore f s).cleanQueues = s.cleanQueues := rfl
@[simp] theorem withStore_map (f : ProfileStore → ProfileStore) (s : State) : (withStore f s).map = s.map := rfl
@[simp] theorem withStore_log (f : ProfileStore → ProfileStore) (s : State) : (withStore f s).log = s.log := rfl
@[simp] theorem withStore_flags (f : ProfileStore → ProfileStore) (s : State) : (withStore f s).flags = s.flags := rfl
@[simp] theorem withStore_notices (f : ProfileStore → ProfileStore) (s : State) : (withStore f s).notices = s.notices := rfl
@[simp] theorem withStore_cues (f : ProfileStore → ProfileStore) (s : State) : (withStore f s).cues = s.cues := rfl
@[simp] theorem withStore_counters (f : ProfileStore → ProfileStore) (s : State) : (withStore f s).counters = s.counters := rfl
@[simp] theorem withStore_arbiter (f : ProfileStore → ProfileStore) (s : State) : (withStore f s).arbiter = s.arbiter := rfl
@[simp] theorem withStore_directives (f : ProfileStore → ProfileStore) (s : State) : (withStore f s).directives = s.directives := rfl
@[simp] theorem withStore_settings (f : ProfileStore → ProfileStore) (s : State) : (withStore f s).settings = s.settings := rfl
@[simp] theorem withStore_stager (f : ProfileStore → ProfileStore) (s : State) : (withStore f s).stager = s.stager := rfl
@[simp] theorem withStore_kernel (f : ProfileStore → ProfileStore) (s : State) : (withStore f s).kernel = s.kernel := rfl
@[simp] theorem withStore_eqSets (f : ProfileStore → ProfileStore) (s : State) : (withStore f s).eqSets = s.eqSets := rfl
@[simp] theorem withStore_lines (f : ProfileStore → ProfileStore) (s : State) : (withStore f s).lines = s.lines := rfl
@[simp] theorem withStore_freeCount (f : ProfileStore → ProfileStore) (s : State) : (withStore f s).freeCount = s.freeCount := rfl
@[simp] theorem withStore_pending (f : ProfileStore → ProfileStore) (s : State) : (withStore f s).pending = s.pending := rfl

@[simp] theorem settleLines_unit (s : State) : (settleLines s).unit = s.unit := rfl
@[simp] theorem settleLines_link (s : State) : (settleLines s).link = s.link := rfl
@[simp] theorem settleLines_intake (s : State) : (settleLines s).intake = s.intake := rfl
@[simp] theorem settleLines_history (s : State) : (settleLines s).history = s.history := rfl
@[simp] theorem settleLines_trackers (s : State) : (settleLines s).trackers = s.trackers := rfl
@[simp] theorem settleLines_resamplers (s : State) : (settleLines s).resamplers = s.resamplers := rfl
@[simp] theorem settleLines_detectors (s : State) : (settleLines s).detectors = s.detectors := rfl
@[simp] theorem settleLines_repairs (s : State) : (settleLines s).repairs = s.repairs := rfl
@[simp] theorem settleLines_eqLanes (s : State) : (settleLines s).eqLanes = s.eqLanes := rfl
@[simp] theorem settleLines_eqSides (s : State) : (settleLines s).eqSides = s.eqSides := rfl
@[simp] theorem settleLines_partials (s : State) : (settleLines s).partials = s.partials := rfl
@[simp] theorem settleLines_cleanQueues (s : State) : (settleLines s).cleanQueues = s.cleanQueues := rfl
@[simp] theorem settleLines_map (s : State) : (settleLines s).map = s.map := rfl
@[simp] theorem settleLines_log (s : State) : (settleLines s).log = s.log := rfl
@[simp] theorem settleLines_flags (s : State) : (settleLines s).flags = s.flags := rfl
@[simp] theorem settleLines_notices (s : State) : (settleLines s).notices = s.notices := rfl
@[simp] theorem settleLines_cues (s : State) : (settleLines s).cues = s.cues := rfl
@[simp] theorem settleLines_counters (s : State) : (settleLines s).counters = s.counters := rfl
@[simp] theorem settleLines_arbiter (s : State) : (settleLines s).arbiter = s.arbiter := rfl
@[simp] theorem settleLines_directives (s : State) : (settleLines s).directives = s.directives := rfl
@[simp] theorem settleLines_settings (s : State) : (settleLines s).settings = s.settings := rfl
@[simp] theorem settleLines_stager (s : State) : (settleLines s).stager = s.stager := rfl
@[simp] theorem settleLines_kernel (s : State) : (settleLines s).kernel = s.kernel := rfl
@[simp] theorem settleLines_eqSets (s : State) : (settleLines s).eqSets = s.eqSets := rfl
@[simp] theorem settleLines_store (s : State) : (settleLines s).store = s.store := rfl
@[simp] theorem settleLines_freeCount (s : State) : (settleLines s).freeCount = s.freeCount := rfl
@[simp] theorem settleLines_pending (s : State) : (settleLines s).pending = s.pending := rfl

@[simp] theorem finishAutoload_link (p : Profile) (o : AutoloadOutcome) (s : State) : (finishAutoload p o s).link = s.link := rfl
@[simp] theorem finishAutoload_history (p : Profile) (o : AutoloadOutcome) (s : State) : (finishAutoload p o s).history = s.history := rfl
@[simp] theorem finishAutoload_trackers (p : Profile) (o : AutoloadOutcome) (s : State) : (finishAutoload p o s).trackers = s.trackers := rfl
@[simp] theorem finishAutoload_resamplers (p : Profile) (o : AutoloadOutcome) (s : State) : (finishAutoload p o s).resamplers = s.resamplers := rfl
@[simp] theorem finishAutoload_detectors (p : Profile) (o : AutoloadOutcome) (s : State) : (finishAutoload p o s).detectors = s.detectors := rfl
@[simp] theorem finishAutoload_repairs (p : Profile) (o : AutoloadOutcome) (s : State) : (finishAutoload p o s).repairs = s.repairs := rfl
@[simp] theorem finishAutoload_eqLanes (p : Profile) (o : AutoloadOutcome) (s : State) : (finishAutoload p o s).eqLanes = s.eqLanes := rfl
@[simp] theorem finishAutoload_eqSides (p : Profile) (o : AutoloadOutcome) (s : State) : (finishAutoload p o s).eqSides = s.eqSides := rfl
@[simp] theorem finishAutoload_partials (p : Profile) (o : AutoloadOutcome) (s : State) : (finishAutoload p o s).partials = s.partials := rfl
@[simp] theorem finishAutoload_cleanQueues (p : Profile) (o : AutoloadOutcome) (s : State) : (finishAutoload p o s).cleanQueues = s.cleanQueues := rfl
@[simp] theorem finishAutoload_map (p : Profile) (o : AutoloadOutcome) (s : State) : (finishAutoload p o s).map = s.map := rfl
@[simp] theorem finishAutoload_log (p : Profile) (o : AutoloadOutcome) (s : State) : (finishAutoload p o s).log = s.log := rfl
@[simp] theorem finishAutoload_flags (p : Profile) (o : AutoloadOutcome) (s : State) : (finishAutoload p o s).flags = s.flags := rfl
@[simp] theorem finishAutoload_notices (p : Profile) (o : AutoloadOutcome) (s : State) : (finishAutoload p o s).notices = s.notices := rfl
@[simp] theorem finishAutoload_cues (p : Profile) (o : AutoloadOutcome) (s : State) : (finishAutoload p o s).cues = s.cues := rfl
@[simp] theorem finishAutoload_counters (p : Profile) (o : AutoloadOutcome) (s : State) : (finishAutoload p o s).counters = s.counters := rfl
@[simp] theorem finishAutoload_arbiter (p : Profile) (o : AutoloadOutcome) (s : State) : (finishAutoload p o s).arbiter = s.arbiter := rfl
@[simp] theorem finishAutoload_directives (p : Profile) (o : AutoloadOutcome) (s : State) : (finishAutoload p o s).directives = s.directives := rfl
@[simp] theorem finishAutoload_settings (p : Profile) (o : AutoloadOutcome) (s : State) : (finishAutoload p o s).settings = s.settings := rfl
@[simp] theorem finishAutoload_stager (p : Profile) (o : AutoloadOutcome) (s : State) : (finishAutoload p o s).stager = s.stager := rfl
@[simp] theorem finishAutoload_store (p : Profile) (o : AutoloadOutcome) (s : State) : (finishAutoload p o s).store = s.store := rfl
@[simp] theorem finishAutoload_lines (p : Profile) (o : AutoloadOutcome) (s : State) : (finishAutoload p o s).lines = s.lines := rfl
@[simp] theorem finishAutoload_freeCount (p : Profile) (o : AutoloadOutcome) (s : State) : (finishAutoload p o s).freeCount = s.freeCount := rfl
@[simp] theorem finishAutoload_pending (p : Profile) (o : AutoloadOutcome) (s : State) : (finishAutoload p o s).pending = s.pending := rfl

@[simp] theorem beginStartUp_intake (s : State) : (beginStartUp s).intake = s.intake := rfl
@[simp] theorem beginStartUp_history (s : State) : (beginStartUp s).history = s.history := rfl
@[simp] theorem beginStartUp_trackers (s : State) : (beginStartUp s).trackers = s.trackers := rfl
@[simp] theorem beginStartUp_resamplers (s : State) : (beginStartUp s).resamplers = s.resamplers := rfl
@[simp] theorem beginStartUp_detectors (s : State) : (beginStartUp s).detectors = s.detectors := rfl
@[simp] theorem beginStartUp_repairs (s : State) : (beginStartUp s).repairs = s.repairs := rfl
@[simp] theorem beginStartUp_eqLanes (s : State) : (beginStartUp s).eqLanes = s.eqLanes := rfl
@[simp] theorem beginStartUp_eqSides (s : State) : (beginStartUp s).eqSides = s.eqSides := rfl
@[simp] theorem beginStartUp_partials (s : State) : (beginStartUp s).partials = s.partials := rfl
@[simp] theorem beginStartUp_cleanQueues (s : State) : (beginStartUp s).cleanQueues = s.cleanQueues := rfl
@[simp] theorem beginStartUp_map (s : State) : (beginStartUp s).map = s.map := rfl
@[simp] theorem beginStartUp_log (s : State) : (beginStartUp s).log = s.log := rfl
@[simp] theorem beginStartUp_flags (s : State) : (beginStartUp s).flags = s.flags := rfl
@[simp] theorem beginStartUp_notices (s : State) : (beginStartUp s).notices = s.notices := rfl
@[simp] theorem beginStartUp_cues (s : State) : (beginStartUp s).cues = s.cues := rfl
@[simp] theorem beginStartUp_counters (s : State) : (beginStartUp s).counters = s.counters := rfl
@[simp] theorem beginStartUp_arbiter (s : State) : (beginStartUp s).arbiter = s.arbiter := rfl
@[simp] theorem beginStartUp_directives (s : State) : (beginStartUp s).directives = s.directives := rfl
@[simp] theorem beginStartUp_settings (s : State) : (beginStartUp s).settings = s.settings := rfl
@[simp] theorem beginStartUp_stager (s : State) : (beginStartUp s).stager = s.stager := rfl
@[simp] theorem beginStartUp_kernel (s : State) : (beginStartUp s).kernel = s.kernel := rfl
@[simp] theorem beginStartUp_eqSets (s : State) : (beginStartUp s).eqSets = s.eqSets := rfl
@[simp] theorem beginStartUp_store (s : State) : (beginStartUp s).store = s.store := rfl
@[simp] theorem beginStartUp_freeCount (s : State) : (beginStartUp s).freeCount = s.freeCount := rfl
@[simp] theorem beginStartUp_pending (s : State) : (beginStartUp s).pending = s.pending := rfl

@[simp] theorem emptyCues_unit (s : State) : (emptyCues s).unit = s.unit := rfl
@[simp] theorem emptyCues_link (s : State) : (emptyCues s).link = s.link := rfl
@[simp] theorem emptyCues_intake (s : State) : (emptyCues s).intake = s.intake := rfl
@[simp] theorem emptyCues_history (s : State) : (emptyCues s).history = s.history := rfl
@[simp] theorem emptyCues_trackers (s : State) : (emptyCues s).trackers = s.trackers := rfl
@[simp] theorem emptyCues_resamplers (s : State) : (emptyCues s).resamplers = s.resamplers := rfl
@[simp] theorem emptyCues_detectors (s : State) : (emptyCues s).detectors = s.detectors := rfl
@[simp] theorem emptyCues_repairs (s : State) : (emptyCues s).repairs = s.repairs := rfl
@[simp] theorem emptyCues_eqLanes (s : State) : (emptyCues s).eqLanes = s.eqLanes := rfl
@[simp] theorem emptyCues_eqSides (s : State) : (emptyCues s).eqSides = s.eqSides := rfl
@[simp] theorem emptyCues_partials (s : State) : (emptyCues s).partials = s.partials := rfl
@[simp] theorem emptyCues_cleanQueues (s : State) : (emptyCues s).cleanQueues = s.cleanQueues := rfl
@[simp] theorem emptyCues_map (s : State) : (emptyCues s).map = s.map := rfl
@[simp] theorem emptyCues_log (s : State) : (emptyCues s).log = s.log := rfl
@[simp] theorem emptyCues_flags (s : State) : (emptyCues s).flags = s.flags := rfl
@[simp] theorem emptyCues_notices (s : State) : (emptyCues s).notices = s.notices := rfl
@[simp] theorem emptyCues_counters (s : State) : (emptyCues s).counters = s.counters := rfl
@[simp] theorem emptyCues_arbiter (s : State) : (emptyCues s).arbiter = s.arbiter := rfl
@[simp] theorem emptyCues_directives (s : State) : (emptyCues s).directives = s.directives := rfl
@[simp] theorem emptyCues_settings (s : State) : (emptyCues s).settings = s.settings := rfl
@[simp] theorem emptyCues_stager (s : State) : (emptyCues s).stager = s.stager := rfl
@[simp] theorem emptyCues_kernel (s : State) : (emptyCues s).kernel = s.kernel := rfl
@[simp] theorem emptyCues_eqSets (s : State) : (emptyCues s).eqSets = s.eqSets := rfl
@[simp] theorem emptyCues_store (s : State) : (emptyCues s).store = s.store := rfl
@[simp] theorem emptyCues_lines (s : State) : (emptyCues s).lines = s.lines := rfl
@[simp] theorem emptyCues_freeCount (s : State) : (emptyCues s).freeCount = s.freeCount := rfl
@[simp] theorem emptyCues_pending (s : State) : (emptyCues s).pending = s.pending := rfl

@[simp] theorem resetTrim_unit (s : State) : (resetTrim s).unit = s.unit := rfl
@[simp] theorem resetTrim_link (s : State) : (resetTrim s).link = s.link := rfl
@[simp] theorem resetTrim_intake (s : State) : (resetTrim s).intake = s.intake := rfl
@[simp] theorem resetTrim_history (s : State) : (resetTrim s).history = s.history := rfl
@[simp] theorem resetTrim_trackers (s : State) : (resetTrim s).trackers = s.trackers := rfl
@[simp] theorem resetTrim_resamplers (s : State) : (resetTrim s).resamplers = s.resamplers := rfl
@[simp] theorem resetTrim_detectors (s : State) : (resetTrim s).detectors = s.detectors := rfl
@[simp] theorem resetTrim_repairs (s : State) : (resetTrim s).repairs = s.repairs := rfl
@[simp] theorem resetTrim_eqLanes (s : State) : (resetTrim s).eqLanes = s.eqLanes := rfl
@[simp] theorem resetTrim_eqSides (s : State) : (resetTrim s).eqSides = s.eqSides := rfl
@[simp] theorem resetTrim_partials (s : State) : (resetTrim s).partials = s.partials := rfl
@[simp] theorem resetTrim_cleanQueues (s : State) : (resetTrim s).cleanQueues = s.cleanQueues := rfl
@[simp] theorem resetTrim_map (s : State) : (resetTrim s).map = s.map := rfl
@[simp] theorem resetTrim_log (s : State) : (resetTrim s).log = s.log := rfl
@[simp] theorem resetTrim_flags (s : State) : (resetTrim s).flags = s.flags := rfl
@[simp] theorem resetTrim_notices (s : State) : (resetTrim s).notices = s.notices := rfl
@[simp] theorem resetTrim_cues (s : State) : (resetTrim s).cues = s.cues := rfl
@[simp] theorem resetTrim_counters (s : State) : (resetTrim s).counters = s.counters := rfl
@[simp] theorem resetTrim_arbiter (s : State) : (resetTrim s).arbiter = s.arbiter := rfl
@[simp] theorem resetTrim_directives (s : State) : (resetTrim s).directives = s.directives := rfl
@[simp] theorem resetTrim_settings (s : State) : (resetTrim s).settings = s.settings := rfl
@[simp] theorem resetTrim_stager (s : State) : (resetTrim s).stager = s.stager := rfl
@[simp] theorem resetTrim_kernel (s : State) : (resetTrim s).kernel = s.kernel := rfl
@[simp] theorem resetTrim_eqSets (s : State) : (resetTrim s).eqSets = s.eqSets := rfl
@[simp] theorem resetTrim_store (s : State) : (resetTrim s).store = s.store := rfl
@[simp] theorem resetTrim_freeCount (s : State) : (resetTrim s).freeCount = s.freeCount := rfl
@[simp] theorem resetTrim_pending (s : State) : (resetTrim s).pending = s.pending := rfl

@[simp] theorem withCounters_counters (f : Counters → Counters) (s : State) : (withCounters f s).counters = f s.counters := rfl
@[simp] theorem withStager_stager (f : Stager → Stager) (s : State) : (withStager f s).stager = f s.stager := rfl
@[simp] theorem withStore_store (f : ProfileStore → ProfileStore) (s : State) : (withStore f s).store = f s.store := rfl
@[simp] theorem withTracker_trackers (d : Side) (f : Tracker → Tracker) (s : State) :
    (withTracker d f s).trackers = s.trackers.modify d f := rfl
@[simp] theorem withResampler_resamplers (d : Side) (f : Resampler → Resampler) (s : State) :
    (withResampler d f s).resamplers = s.resamplers.modify d f := rfl
@[simp] theorem raise_flags (k : EventKind) (s : State) : (raise k s).flags = s.flags ||| k.mask := rfl
@[simp] theorem clearFlags_flags (set : BitVec 12) (s : State) : (clearFlags set s).flags = s.flags &&& ~~~set := rfl
@[simp] theorem setEntries_entries (es : List MapEntry) (s : State) : (setEntries es s).map.entries = es := rfl
@[simp] theorem stopWalkers_entries (s : State) : (stopWalkers s).map.entries = s.map.entries := rfl
@[simp] theorem withSideWalker_entries (d : Side) (f : Walker → Walker) (s : State) :
    (withSideWalker d f s).map.entries = s.map.entries := rfl
@[simp] theorem withIntakeWalker_entries (f : Walker → Walker) (s : State) :
    (withIntakeWalker f s).map.entries = s.map.entries := rfl
@[simp] theorem noteFault_settings (b : Bool) (s : State) : (noteFault b s).settings = s.settings := by cases b <;> rfl
@[simp] theorem settleLines_levels (s : State) : (settleLines s).lines.levels = Quad.tabulate (lineLevel s) := rfl

end Machine

end Sys2Proof
end

