-- ==== Sys2Proof/Laws/Stream.lean ====
section
/-! SUPPORT. What the operations of the audio stream leave as it was: one lemma per operation and group of fields. -/

namespace Sys2Proof.Machine

/-! ### Groups of fields -/

/-- What no part of the audio stream changes. -/
def State.beside (s : State) :
    UnitRegs × LinkBlock × Arbiter × List Answer × Settings × ProfileStore × List Instr × List MapEntry :=
  (s.unit, s.link, s.arbiter, s.directives, s.settings, s.store, s.pending, s.map.entries)

/-- The tables in use, the stager, and the count of free values: only a boundary or a pass end changes them. -/
def State.tables (s : State) : List Int × Quad (List Int) × Stager × Nat := (s.kernel, s.eqSets, s.stager, s.freeCount)

/-- What intake and the detectors hold. -/
def State.tape (s : State) : Intake × Quad Ring × Quad Detector × List DamageRecord :=
  (s.intake, s.history, s.detectors, s.log)

/-- What stands between the trackers and the clean queues. -/
def State.audio (s : State) : PerSide Resampler × Quad Repair × Quad EqLane × PerSide EqSide ×
    PerSide (List CleanFrame) × PerSide (List CleanParcel) × List Cue :=
  (s.resamplers, s.repairs, s.eqLanes, s.eqSides, s.partials, s.cleanQueues, s.cues)

/-! ### Detectors -/

@[simp] theorem markFrame_beside (l : Lane) (p : Nat) (s : State) : (markFrame l p s).beside = s.beside := rfl
@[simp] theorem markFrame_tables (l : Lane) (p : Nat) (s : State) : (markFrame l p s).tables = s.tables := rfl
@[simp] theorem markFrame_audio (l : Lane) (p : Nat) (s : State) : (markFrame l p s).audio = s.audio := rfl
@[simp] theorem markFrame_trackers (l : Lane) (p : Nat) (s : State) : (markFrame l p s).trackers = s.trackers := rfl
@[simp] theorem markFrame_map (l : Lane) (p : Nat) (s : State) : (markFrame l p s).map = s.map := rfl
@[simp] theorem markFrame_intake (l : Lane) (p : Nat) (s : State) : (markFrame l p s).intake = s.intake := rfl
@[simp] theorem markFrame_detectors (l : Lane) (p : Nat) (s : State) : (markFrame l p s).detectors = s.detectors := rfl
@[simp] theorem markFrame_log (l : Lane) (p : Nat) (s : State) : (markFrame l p s).log = s.log := rfl
@[simp] theorem markFrame_lines (l : Lane) (p : Nat) (s : State) : (markFrame l p s).lines = s.lines := rfl
@[simp] theorem markFrame_notices (l : Lane) (p : Nat) (s : State) : (markFrame l p s).notices = s.notices := rfl
@[simp] theorem markFrame_flags (l : Lane) (p : Nat) (s : State) : (markFrame l p s).flags = s.flags := rfl

/-- A projection that marking one frame keeps, marking a run keeps. -/
theorem markRun_keeps {γ : Type} (g : State → γ) (l : Lane) (h : ∀ p s, g (markFrame l p s) = g s) (p n : Nat) (s : State) :
    g (markRun l p n s) = g s := by
  induction n generalizing p s with
  | zero => rfl
  | succ n ih => rw [markRun, ih, h]

/-- A property that marking one frame keeps, marking a run keeps. -/
theorem markRun_preserves (P : State → Prop) (l : Lane) (h : ∀ p s, P s → P (markFrame l p s)) (p n : Nat) (s : State)
    (hs : P s) : P (markRun l p n s) := by
  induction n generalizing p s with
  | zero => exact hs
  | succ n ih => exact ih _ _ (h _ _ hs)

/-- All that appending a damage record can do: it joins the log, with LOG_HIGH and the pause request at 48, or it is
counted unlogged and LOG_FULL raised (R143, R187). -/
theorem appendDamage_cases (r : DamageRecord) (s : State) :
    (64 ≤ s.log.length ∧ appendDamage r s =
      raise .logFull (withCounters (fun c => { c with unloggedDropouts := countUp c.unloggedDropouts 1 }) s)) ∨
    (s.log.length = 47 ∧ appendDamage r s =
      raise .logHigh { s with
        log := s.log ++ [r]
        lines := { s.lines with pauseRequest := s.lines.pauseRequest || s.settings.pauseOnLogHigh } }) ∨
    (s.log.length < 64 ∧ s.log.length ≠ 47 ∧ appendDamage r s = { s with log := s.log ++ [r] }) := by
  unfold appendDamage
  by_cases h : 64 ≤ s.log.length
  · exact .inl ⟨h, by simp [h]⟩
  · by_cases k : s.log.length = 47
    · exact .inr (.inl ⟨k, by simp [k]⟩)
    · exact .inr (.inr ⟨by omega, k, by simp [h, k]⟩)

/-- A projection that raising events, counting, and changing the log and the lines keep, appending a record keeps. -/
theorem appendDamage_keeps {γ : Type} (g : State → γ) (hr : ∀ k s, g (raise k s) = g s)
    (hc : ∀ f s, g (withCounters f s) = g s) (hl : ∀ (s : State) l n, g { s with log := l, lines := n } = g s)
    (r : DamageRecord) (s : State) : g (appendDamage r s) = g s := by
  rcases appendDamage_cases r s with ⟨-, h⟩ | ⟨-, h⟩ | ⟨-, -, h⟩
  · rw [h, hr, hc]
  · rw [h, hr, hl]
  · rw [h]; exact hl s (s.log ++ [r]) s.lines

@[simp] theorem appendDamage_beside (r : DamageRecord) (s : State) : (appendDamage r s).beside = s.beside :=
  appendDamage_keeps _ (fun _ _ => rfl) (fun _ _ => rfl) (fun _ _ _ => rfl) r s
@[simp] theorem appendDamage_tables (r : DamageRecord) (s : State) : (appendDamage r s).tables = s.tables :=
  appendDamage_keeps _ (fun _ _ => rfl) (fun _ _ => rfl) (fun _ _ _ => rfl) r s
@[simp] theorem appendDamage_audio (r : DamageRecord) (s : State) : (appendDamage r s).audio = s.audio :=
  appendDamage_keeps _ (fun _ _ => rfl) (fun _ _ => rfl) (fun _ _ _ => rfl) r s
@[simp] theorem appendDamage_trackers (r : DamageRecord) (s : State) : (appendDamage r s).trackers = s.trackers :=
  appendDamage_keeps _ (fun _ _ => rfl) (fun _ _ => rfl) (fun _ _ _ => rfl) r s
@[simp] theorem appendDamage_map (r : DamageRecord) (s : State) : (appendDamage r s).map = s.map :=
  appendDamage_keeps _ (fun _ _ => rfl) (fun _ _ => rfl) (fun _ _ _ => rfl) r s
@[simp] theorem appendDamage_intake (r : DamageRecord) (s : State) : (appendDamage r s).intake = s.intake :=
  appendDamage_keeps _ (fun _ _ => rfl) (fun _ _ => rfl) (fun _ _ _ => rfl) r s
@[simp] theorem appendDamage_history (r : DamageRecord) (s : State) : (appendDamage r s).history = s.history :=
  appendDamage_keeps _ (fun _ _ => rfl) (fun _ _ => rfl) (fun _ _ _ => rfl) r s
@[simp] theorem appendDamage_detectors (r : DamageRecord) (s : State) : (appendDamage r s).detectors = s.detectors :=
  appendDamage_keeps _ (fun _ _ => rfl) (fun _ _ => rfl) (fun _ _ _ => rfl) r s

/-- What a detector does with a frame, as the marks and then the record of a closed run. -/
theorem presentFrame_eq (l : Lane) (pos : Nat) (s : State) :
    ∃ (x : Examined) (t : State),
      x = examineFrame (nInEff s.settings.nIn s.intake.applied.window) s.settings.nOut
        (isLow (thresholdInForce s l) (historyAt s l pos)) pos (historyAt s l pos) (s.detectors.get l) ∧
      t = markRun l x.markFrom x.markCount { s with detectors := s.detectors.set l x.next } ∧
      ((x.closed = none ∧ presentFrame l pos s = t) ∨
        ∃ stop, x.closed = some stop ∧ presentFrame l pos s = closeRun l (s.detectors.get l) stop false t) := by
  refine ⟨_, _, rfl, rfl, ?_⟩
  unfold presentFrame
  cases h : (examineFrame (nInEff s.settings.nIn s.intake.applied.window) s.settings.nOut
    (isLow (thresholdInForce s l) (historyAt s l pos)) pos (historyAt s l pos) (s.detectors.get l)).closed with
  | none => exact .inl ⟨rfl, by simp only [h]⟩
  | some stop => exact .inr ⟨stop, rfl, by simp only [h]⟩

/-- A projection that the detectors' own state, the marks and the reports of a run do not touch, presenting a frame
keeps. -/
theorem presentFrame_keeps {γ : Type} (g : State → γ) (hd : ∀ (s : State) d, g { s with detectors := d } = g s)
    (hm : ∀ l p s, g (markFrame l p s) = g s) (hc : ∀ f s, g (withCounters f s) = g s)
    (ha : ∀ r s, g (appendDamage r s) = g s) (l : Lane) (pos : Nat) (s : State) : g (presentFrame l pos s) = g s := by
  obtain ⟨x, t, -, ht, h⟩ := presentFrame_eq l pos s
  have hk : g t = g s := by rw [ht, markRun_keeps g l (hm l), hd]
  rcases h with ⟨-, h⟩ | ⟨stop, -, h⟩
  · rw [h, hk]
  · rw [h, closeRun, ha, hc, hk]

@[simp] theorem presentFrame_beside (l : Lane) (p : Nat) (s : State) : (presentFrame l p s).beside = s.beside :=
  presentFrame_keeps _ (fun _ _ => rfl) (by simp) (fun _ _ => rfl) (by simp) l p s
@[simp] theorem presentFrame_tables (l : Lane) (p : Nat) (s : State) : (presentFrame l p s).tables = s.tables :=
  presentFrame_keeps _ (fun _ _ => rfl) (by simp) (fun _ _ => rfl) (by simp) l p s
@[simp] theorem presentFrame_audio (l : Lane) (p : Nat) (s : State) : (presentFrame l p s).audio = s.audio :=
  presentFrame_keeps _ (fun _ _ => rfl) (by simp) (fun _ _ => rfl) (by simp) l p s
@[simp] theorem presentFrame_trackers (l : Lane) (p : Nat) (s : State) : (presentFrame l p s).trackers = s.trackers :=
  presentFrame_keeps _ (fun _ _ => rfl) (by simp) (by simp) (by simp) l p s
@[simp] theorem presentFrame_map (l : Lane) (p : Nat) (s : State) : (presentFrame l p s).map = s.map :=
  presentFrame_keeps _ (fun _ _ => rfl) (by simp) (by simp) (by simp) l p s
@[simp] theorem presentFrame_intake (l : Lane) (p : Nat) (s : State) : (presentFrame l p s).intake = s.intake :=
  presentFrame_keeps _ (fun _ _ => rfl) (by simp) (by simp) (by simp) l p s

/-- A projection that the detectors' own state and the reports of a run do not touch, ending a detector keeps. -/
theorem endDetector_keeps {γ : Type} (g : State → γ) (hd : ∀ (s : State) d, g { s with detectors := d } = g s)
    (hc : ∀ f s, g (withCounters f s) = g s) (ha : ∀ r s, g (appendDamage r s) = g s) (s : State) (l : Lane) :
    g (endDetector s l) = g s := by
  unfold endDetector
  dsimp only
  split
  · exact hd s _
  · exact hd s _
  · exact (ha _ _).trans ((hc _ _).trans (hd s _))
  · exact (ha _ _).trans ((hc _ _).trans (hd s _))

/-- The pass end at the detectors keeps what one detector's end keeps. -/
theorem endDetectors_keeps {γ : Type} (g : State → γ) (hd : ∀ (s : State) d, g { s with detectors := d } = g s)
    (hc : ∀ f s, g (withCounters f s) = g s) (ha : ∀ r s, g (appendDamage r s) = g s) (s : State) :
    g (endDetectors s) = g s :=
  foldl_keeps g _ (endDetector_keeps g hd hc ha) _ _

@[simp] theorem endDetectors_beside (s : State) : (endDetectors s).beside = s.beside :=
  endDetectors_keeps _ (fun _ _ => rfl) (fun _ _ => rfl) (by simp) s
@[simp] theorem endDetectors_tables (s : State) : (endDetectors s).tables = s.tables :=
  endDetectors_keeps _ (fun _ _ => rfl) (fun _ _ => rfl) (by simp) s
@[simp] theorem endDetectors_audio (s : State) : (endDetectors s).audio = s.audio :=
  endDetectors_keeps _ (fun _ _ => rfl) (fun _ _ => rfl) (by simp) s
@[simp] theorem endDetectors_trackers (s : State) : (endDetectors s).trackers = s.trackers :=
  endDetectors_keeps _ (fun _ _ => rfl) (fun _ _ => rfl) (by simp) s
@[simp] theorem endDetectors_map (s : State) : (endDetectors s).map = s.map :=
  endDetectors_keeps _ (fun _ _ => rfl) (fun _ _ => rfl) (by simp) s
@[simp] theorem endDetectors_intake (s : State) : (endDetectors s).intake = s.intake :=
  endDetectors_keeps _ (fun _ _ => rfl) (fun _ _ => rfl) (by simp) s
@[simp] theorem endDetectors_history (s : State) : (endDetectors s).history = s.history :=
  endDetectors_keeps _ (fun _ _ => rfl) (fun _ _ => rfl) (by simp) s

/-! ### Walkers -/

/-- A projection that cues, counts, trackers and walkers do not touch, every move of a side's walker keeps. -/
theorem appendCue_keeps {γ : Type} (g : State → γ) (hq : ∀ (s : State) q, g { s with cues := q } = g s)
    (hc : ∀ f s, g (withCounters f s) = g s) (c : Cue) (s : State) : g (appendCue c s) = g s := by
  unfold appendCue
  split
  · exact hq _ _
  · exact hc _ _

theorem activateEntry_keeps {γ : Type} (g : State → γ) (hq : ∀ (s : State) q, g { s with cues := q } = g s)
    (hc : ∀ f s, g (withCounters f s) = g s) (ht : ∀ d f s, g (withTracker d f s) = g s)
    (hw : ∀ d f s, g (withSideWalker d f s) = g s) (d : Side) (b : Bool) (s : State) (e : MapEntry) :
    g (activateEntry d b s e) = g s := by
  unfold activateEntry
  cases e.cls <;> simp only [ht, hw]
  cases b
  · simp only [Bool.false_eq_true, if_false, appendCue_keeps g hq hc, hw]
  · simp only [if_true, hw]

theorem endEntry_keeps {γ : Type} (g : State → γ) (hq : ∀ (s : State) q, g { s with cues := q } = g s)
    (hc : ∀ f s, g (withCounters f s) = g s) (ht : ∀ d f s, g (withTracker d f s) = g s)
    (hw : ∀ d f s, g (withSideWalker d f s) = g s) (d : Side) (s : State) (e : MapEntry) :
    g (endEntry d s e) = g s := by
  unfold endEntry
  cases e.cls <;> simp only [ht, hw, appendCue_keeps g hq hc]

theorem walkPosition_keeps {γ : Type} (g : State → γ) (hq : ∀ (s : State) q, g { s with cues := q } = g s)
    (hc : ∀ f s, g (withCounters f s) = g s) (ht : ∀ d f s, g (withTracker d f s) = g s)
    (hw : ∀ d f s, g (withSideWalker d f s) = g s) (d : Side) (x : Nat) (s : State) :
    g (walkPosition d x s) = g s := by
  unfold walkPosition
  rw [hw, foldl_keeps g _ (activateEntry_keeps g hq hc ht hw d false), foldl_keeps g _ (endEntry_keeps g hq hc ht hw d)]

theorem walkFrom_keeps {γ : Type} (g : State → γ) (hq : ∀ (s : State) q, g { s with cues := q } = g s)
    (hc : ∀ f s, g (withCounters f s) = g s) (ht : ∀ d f s, g (withTracker d f s) = g s)
    (hw : ∀ d f s, g (withSideWalker d f s) = g s) (d : Side) (x n : Nat) (s : State) :
    g (walkFrom d x n s) = g s := by
  induction n generalizing x s with
  | zero => rfl
  | succ n ih => rw [walkFrom, ih, walkPosition_keeps g hq hc ht hw]

theorem walkTo_keeps {γ : Type} (g : State → γ) (hq : ∀ (s : State) q, g { s with cues := q } = g s)
    (hc : ∀ f s, g (withCounters f s) = g s) (ht : ∀ d f s, g (withTracker d f s) = g s)
    (hw : ∀ d f s, g (withSideWalker d f s) = g s) (d : Side) (x : Nat) (s : State) : g (walkTo d x s) = g s := by
  unfold walkTo
  dsimp only
  split
  · exact walkFrom_keeps g hq hc ht hw _ _ _ _
  · rfl

theorem seekSide_keeps {γ : Type} (g : State → γ) (hq : ∀ (s : State) q, g { s with cues := q } = g s)
    (hc : ∀ f s, g (withCounters f s) = g s) (ht : ∀ d f s, g (withTracker d f s) = g s)
    (hw : ∀ d f s, g (withSideWalker d f s) = g s) (d : Side) (p : Nat) (s : State) : g (seekSide d p s) = g s := by
  unfold seekSide
  rw [foldl_keeps g _ (activateEntry_keeps g hq hc ht hw d true), hw]

@[simp] theorem walkTo_beside (d : Side) (x : Nat) (s : State) : (walkTo d x s).beside = s.beside :=
  walkTo_keeps _ (fun _ _ => rfl) (fun _ _ => rfl) (fun _ _ _ => rfl) (fun _ _ _ => rfl) d x s
@[simp] theorem walkTo_tables (d : Side) (x : Nat) (s : State) : (walkTo d x s).tables = s.tables :=
  walkTo_keeps _ (fun _ _ => rfl) (fun _ _ => rfl) (fun _ _ _ => rfl) (fun _ _ _ => rfl) d x s
@[simp] theorem walkTo_tape (d : Side) (x : Nat) (s : State) : (walkTo d x s).tape = s.tape :=
  walkTo_keeps _ (fun _ _ => rfl) (fun _ _ => rfl) (fun _ _ _ => rfl) (fun _ _ _ => rfl) d x s
@[simp] theorem walkTo_lines (d : Side) (x : Nat) (s : State) : (walkTo d x s).lines = s.lines :=
  walkTo_keeps _ (fun _ _ => rfl) (fun _ _ => rfl) (fun _ _ _ => rfl) (fun _ _ _ => rfl) d x s
@[simp] theorem walkTo_resamplers (d : Side) (x : Nat) (s : State) : (walkTo d x s).resamplers = s.resamplers :=
  walkTo_keeps _ (fun _ _ => rfl) (fun _ _ => rfl) (fun _ _ _ => rfl) (fun _ _ _ => rfl) d x s
@[simp] theorem walkTo_partials (d : Side) (x : Nat) (s : State) : (walkTo d x s).partials = s.partials :=
  walkTo_keeps _ (fun _ _ => rfl) (fun _ _ => rfl) (fun _ _ _ => rfl) (fun _ _ _ => rfl) d x s
@[simp] theorem walkTo_eqLanes (d : Side) (x : Nat) (s : State) : (walkTo d x s).eqLanes = s.eqLanes :=
  walkTo_keeps _ (fun _ _ => rfl) (fun _ _ => rfl) (fun _ _ _ => rfl) (fun _ _ _ => rfl) d x s
@[simp] theorem walkTo_eqSides (d : Side) (x : Nat) (s : State) : (walkTo d x s).eqSides = s.eqSides :=
  walkTo_keeps _ (fun _ _ => rfl) (fun _ _ => rfl) (fun _ _ _ => rfl) (fun _ _ _ => rfl) d x s

/-! ### Equalizer and assembler -/

/-- What the equalizer, the assembler and the clean queue may change is only their own state, the counters, and what
raising OUTPUT_CLIP changes. -/
structure EqKeeps {γ : Type} (g : State → γ) : Prop where
  lanes : ∀ (s : State) x, g { s with eqLanes := x } = g s
  sides : ∀ (s : State) x, g { s with eqSides := x } = g s
  partials : ∀ (s : State) x, g { s with partials := x } = g s
  queues : ∀ (s : State) x, g { s with cleanQueues := x } = g s
  counters : ∀ f s, g (withCounters f s) = g s
  raised : ∀ k s, g (raise k s) = g s

theorem completePartial_keeps {γ : Type} {g : State → γ} (h : EqKeeps g) (d : Side) (s : State) :
    g (completePartial d s) = g s := by
  unfold completePartial
  split
  · rfl
  · unfold queueClean
    split
    · rw [h.queues, h.partials]
    · rw [h.counters, h.partials]

theorem putOut_keeps {γ : Type} {g : State → γ} (h : EqKeeps g) (d : Side) (r : FrameRecord) (s : State) :
    g (putOut d r s) = g s := by
  have hc : ∀ l f s, g (countClip l f s) = g s := by
    intro l f s
    unfold countClip
    split
    · rw [h.raised, h.counters]
    · rfl
  unfold putOut assemble
  dsimp only
  split
  · rw [completePartial_keeps h, h.partials, hc, hc]
  · rw [h.partials, hc, hc]

theorem eqIntake_keeps {γ : Type} {g : State → γ} (h : EqKeeps g) (d : Side) (a b : LaneIntake) (r : Option FrameRecord)
    (s : State) : g (eqIntake d a b r s) = g s := by
  have hl : ∀ l x s, g (takeLane l x s) = g s := by
    intro l x s
    unfold takeLane
    split
    · exact h.lanes _ _
    · rfl
  unfold eqIntake
  dsimp only
  split
  · rw [h.sides, hl, hl]
  · split
    · rw [putOut_keeps h, h.sides, hl, hl]
    · rw [h.sides, hl, hl]

theorem flushIntakes_keeps {γ : Type} {g : State → γ} (h : EqKeeps g) (d : Side) (n : Nat) (s : State) :
    g (flushIntakes d n s) = g s := by
  induction n generalizing s with
  | zero => rfl
  | succ n ih => rw [flushIntakes, ih, eqIntake_keeps h]

theorem tailFlush_keeps {γ : Type} {g : State → γ} (h : EqKeeps g) (d : Side) (s : State) : g (tailFlush d s) = g s := by
  unfold tailFlush setFlushing
  rw [h.sides, flushIntakes_keeps h, h.sides]

theorem flushSide_keeps {γ : Type} {g : State → γ} (h : EqKeeps g) (s : State) (d : Side) : g (flushSide s d) = g s := by
  unfold flushSide
  split
  · rw [completePartial_keeps h, tailFlush_keeps h]
  · rfl

theorem discardSide_keeps {γ : Type} {g : State → γ} (h : EqKeeps g) (s : State) (d : Side) :
    g (discardSide s d) = g s := by
  unfold discardSide
  split
  · rw [h.counters]
    exact (h.queues { s with partials := s.partials.set d [] } _).trans (h.partials s _)
  · rfl

theorem eqKeeps_beside : EqKeeps State.beside :=
  ⟨fun _ _ => rfl, fun _ _ => rfl, fun _ _ => rfl, fun _ _ => rfl, fun _ _ => rfl, fun _ _ => rfl⟩
theorem eqKeeps_tables : EqKeeps State.tables :=
  ⟨fun _ _ => rfl, fun _ _ => rfl, fun _ _ => rfl, fun _ _ => rfl, fun _ _ => rfl, fun _ _ => rfl⟩
theorem eqKeeps_tape : EqKeeps State.tape :=
  ⟨fun _ _ => rfl, fun _ _ => rfl, fun _ _ => rfl, fun _ _ => rfl, fun _ _ => rfl, fun _ _ => rfl⟩
theorem eqKeeps_trackers : EqKeeps State.trackers :=
  ⟨fun _ _ => rfl, fun _ _ => rfl, fun _ _ => rfl, fun _ _ => rfl, fun _ _ => rfl, fun _ _ => rfl⟩
theorem eqKeeps_map : EqKeeps State.map :=
  ⟨fun _ _ => rfl, fun _ _ => rfl, fun _ _ => rfl, fun _ _ => rfl, fun _ _ => rfl, fun _ _ => rfl⟩
theorem eqKeeps_resamplers : EqKeeps State.resamplers :=
  ⟨fun _ _ => rfl, fun _ _ => rfl, fun _ _ => rfl, fun _ _ => rfl, fun _ _ => rfl, fun _ _ => rfl⟩
theorem eqKeeps_lines : EqKeeps State.lines :=
  ⟨fun _ _ => rfl, fun _ _ => rfl, fun _ _ => rfl, fun _ _ => rfl, fun _ _ => rfl, fun _ _ => rfl⟩
theorem eqKeeps_cues : EqKeeps State.cues :=
  ⟨fun _ _ => rfl, fun _ _ => rfl, fun _ _ => rfl, fun _ _ => rfl, fun _ _ => rfl, fun _ _ => rfl⟩

/-! ### Tracker updates and productions -/

theorem updateTracker_keeps {γ : Type} (g : State → γ) (ht : ∀ (s : State) x, g { s with trackers := x } = g s)
    (hl : ∀ (s : State) x, g { s with lines := x } = g s)
    (hc : ∀ f s, g (withCounters f s) = g s) (hr : ∀ k s, g (raise k s) = g s) (d : Side) (s : State) :
    g (updateTracker d s) = g s := by
  have hm : ∀ s, g (trimCount d s) = g s := by
    intro s
    unfold trimCount
    split
    · dsimp only
      split <;> exact hl _ _
    · rfl
  unfold updateTracker countUpdate
  split
  · dsimp only
    rw [hm]
    split
    · rw [hr, hc, ht]
    · rw [hc, ht]
  · rfl

@[simp] theorem updateTracker_beside (d : Side) (s : State) : (updateTracker d s).beside = s.beside :=
  updateTracker_keeps _ (fun _ _ => rfl) (fun _ _ => rfl) (fun _ _ => rfl) (fun _ _ => rfl) d s
@[simp] theorem updateTracker_tables (d : Side) (s : State) : (updateTracker d s).tables = s.tables :=
  updateTracker_keeps _ (fun _ _ => rfl) (fun _ _ => rfl) (fun _ _ => rfl) (fun _ _ => rfl) d s
@[simp] theorem updateTracker_tape (d : Side) (s : State) : (updateTracker d s).tape = s.tape :=
  updateTracker_keeps _ (fun _ _ => rfl) (fun _ _ => rfl) (fun _ _ => rfl) (fun _ _ => rfl) d s
@[simp] theorem updateTracker_audio (d : Side) (s : State) : (updateTracker d s).audio = s.audio :=
  updateTracker_keeps _ (fun _ _ => rfl) (fun _ _ => rfl) (fun _ _ => rfl) (fun _ _ => rfl) d s
@[simp] theorem updateTracker_map (d : Side) (s : State) : (updateTracker d s).map = s.map :=
  updateTracker_keeps _ (fun _ _ => rfl) (fun _ _ => rfl) (fun _ _ => rfl) (fun _ _ => rfl) d s

/-- What a production may change beyond the equalizer's part: resamplers, repair stages, cues, trackers' forces and
side walkers. -/
structure ProductionKeeps {γ : Type} (g : State → γ) : Prop extends EqKeeps g where
  resamplers : ∀ (s : State) x, g { s with resamplers := x } = g s
  repairs : ∀ (s : State) x, g { s with repairs := x } = g s
  cues : ∀ (s : State) x, g { s with cues := x } = g s
  trackers : ∀ d f s, g (withTracker d f s) = g s
  walkers : ∀ d f s, g (withSideWalker d f s) = g s

theorem handOnFrame_keeps {γ : Type} {g : State → γ} (h : EqKeeps g) (hp : ∀ (s : State) x, g { s with repairs := x } = g s)
    (d : Side) (x y : Option LaneInput) (s : State) : g (handOnFrame d x y s) = g s := by
  have hr : ∀ l a b s, g (repairLane l a b s).2 = g s := by
    intro l a b s
    unfold repairLane
    cases a with
    | none => rfl
    | some v =>
      simp only [countRepair]
      rw [h.counters]
      exact hp s _
  unfold handOnFrame
  dsimp only
  rw [eqIntake_keeps h, h.counters, hr, hr]

theorem produceFrame_keeps {γ : Type} {g : State → γ} (h : ProductionKeeps g) (d : Side) (s : State) :
    g (produceFrame d s) = g s := by
  have hx : ∀ f s, g (withResampler d f s) = g s := fun f s => h.resamplers s _
  unfold produceFrame
  dsimp only
  rw [hx, handOnFrame_keeps h.toEqKeeps h.repairs, walkTo_keeps g h.cues h.counters h.trackers h.walkers, hx]

theorem produceUpTo_keeps {γ : Type} {g : State → γ} (h : ProductionKeeps g) (d : Side) (n : Nat) (s : State) :
    g (produceUpTo d n s) = g s := by
  induction n generalizing s with
  | zero => rfl
  | succ n ih =>
    unfold produceUpTo
    split
    · rw [ih, produceFrame_keeps h]
    · rfl

theorem production_keeps {γ : Type} {g : State → γ} (h : ProductionKeeps g) (d : Side) (s : State) :
    g (production d s) = g s := by
  unfold production
  split
  · exact produceUpTo_keeps h _ _ _
  · rfl

theorem productionKeeps_beside : ProductionKeeps State.beside :=
  ⟨eqKeeps_beside, fun _ _ => rfl, fun _ _ => rfl, fun _ _ => rfl, fun _ _ _ => rfl, fun _ _ _ => rfl⟩
theorem productionKeeps_tables : ProductionKeeps State.tables :=
  ⟨eqKeeps_tables, fun _ _ => rfl, fun _ _ => rfl, fun _ _ => rfl, fun _ _ _ => rfl, fun _ _ _ => rfl⟩
theorem productionKeeps_tape : ProductionKeeps State.tape :=
  ⟨eqKeeps_tape, fun _ _ => rfl, fun _ _ => rfl, fun _ _ => rfl, fun _ _ _ => rfl, fun _ _ _ => rfl⟩
theorem productionKeeps_lines : ProductionKeeps State.lines :=
  ⟨eqKeeps_lines, fun _ _ => rfl, fun _ _ => rfl, fun _ _ => rfl, fun _ _ _ => rfl, fun _ _ _ => rfl⟩

/-! ### Boundaries -/

/-- An installation changes the tables in use and the stager only. -/
theorem installPending_keeps {γ : Type} (g : State → γ)
    (h : ∀ (s : State) k q x, g { s with kernel := k, eqSets := q, stager := x } = g s) (s : State) :
    g (installPending s) = g s := by
  have ht : ∀ i s, g (installTables i s) = g s := by
    intro i s
    unfold installTables
    split
    · rfl
    · exact h s s.stager.staging s.eqSets s.stager
    · exact h s s.kernel _ s.stager
    · split
      · exact h s _ _ s.stager
      · rfl
  unfold installPending
  dsimp only
  rw [← ht s.stager.install s]
  exact h _ (installTables s.stager.install s).kernel (installTables s.stager.install s).eqSets _

/-- What a boundary keeps: what its tracker updates, its productions and its installation all keep. -/
structure BoundaryKeeps {γ : Type} (g : State → γ) : Prop extends ProductionKeeps g where
  allTrackers : ∀ (s : State) x, g { s with trackers := x } = g s
  lines : ∀ (s : State) x, g { s with lines := x } = g s
  tables : ∀ (s : State) k q x, g { s with kernel := k, eqSets := q, stager := x } = g s
  freeCount : ∀ (s : State) n, g { s with freeCount := n } = g s

theorem boundary_keeps {γ : Type} {g : State → γ} (h : BoundaryKeeps g) (s : State) : g (boundary s) = g s := by
  unfold boundary
  dsimp only
  rw [installPending_keeps g h.tables, foldl_keeps g, h.freeCount]
  intro s w
  cases w with
  | update d => exact updateTracker_keeps g h.allTrackers h.lines h.counters h.raised d s
  | produce d => exact production_keeps h.toProductionKeeps d s

theorem boundaryKeeps_beside : BoundaryKeeps State.beside :=
  ⟨productionKeeps_beside, fun _ _ => rfl, fun _ _ => rfl, fun _ _ _ _ => rfl, fun _ _ => rfl⟩
theorem boundaryKeeps_tape : BoundaryKeeps State.tape :=
  ⟨productionKeeps_tape, fun _ _ => rfl, fun _ _ => rfl, fun _ _ _ _ => rfl, fun _ _ => rfl⟩

@[simp] theorem boundary_beside (s : State) : (boundary s).beside = s.beside := boundary_keeps boundaryKeeps_beside s
@[simp] theorem boundary_tape (s : State) : (boundary s).tape = s.tape := boundary_keeps boundaryKeeps_tape s
theorem boundary_intake (s : State) : (boundary s).intake = s.intake := congrArg (·.1) (boundary_tape s)
theorem boundary_history (s : State) : (boundary s).history = s.history := congrArg (·.2.1) (boundary_tape s)
theorem boundary_detectors (s : State) : (boundary s).detectors = s.detectors := congrArg (·.2.2.1) (boundary_tape s)
theorem boundary_log (s : State) : (boundary s).log = s.log := congrArg (·.2.2.2) (boundary_tape s)

/-! ### Frames and parcels -/

/-- What writing a frame keeps. -/
structure FrameKeeps {γ : Type} (g : State → γ) : Prop where
  history : ∀ (s : State) x, g { s with history := x } = g s
  position : ∀ (s : State) p, g { s with intake := { s.intake with position := p } } = g s
  walker : ∀ f s, g (withIntakeWalker f s) = g s
  detectors : ∀ (s : State) x, g { s with detectors := x } = g s
  counters : ∀ f s, g (withCounters f s) = g s
  appended : ∀ r s, g (appendDamage r s) = g s

theorem writeFrame_keeps {γ : Type} {g : State → γ} (h : FrameKeeps g) (pos : Nat) (f : Quad HistEntry) (s : State) :
    g (writeFrame pos f s) = g s := by
  have hm : ∀ l p s, g (markFrame l p s) = g s := fun l p s => (h.counters _ _).trans (h.history s _)
  unfold writeFrame
  dsimp only
  rw [foldl_keeps g _ (fun s l => presentFrame_keeps g h.detectors hm h.counters h.appended l pos s), h.walker,
    h.position, foldl_keeps g (fun t l => writeHistory l pos (f.get l) t) (fun s l => h.history s _)]

theorem writeFrames_keeps {γ : Type} {g : State → γ} (h : FrameKeeps g) (pos : Nat) (fs : List (Quad HistEntry))
    (s : State) : g (writeFrames pos fs s) = g s := by
  induction fs generalizing pos s with
  | nil => rfl
  | cons f rest ih => rw [writeFrames, ih, writeFrame_keeps h]

theorem frameKeeps_beside : FrameKeeps State.beside :=
  ⟨fun _ _ => rfl, fun _ _ => rfl, fun _ _ => rfl, fun _ _ => rfl, fun _ _ => rfl, by simp⟩
theorem frameKeeps_tables : FrameKeeps State.tables :=
  ⟨fun _ _ => rfl, fun _ _ => rfl, fun _ _ => rfl, fun _ _ => rfl, fun _ _ => rfl, by simp⟩
theorem frameKeeps_audio : FrameKeeps State.audio :=
  ⟨fun _ _ => rfl, fun _ _ => rfl, fun _ _ => rfl, fun _ _ => rfl, fun _ _ => rfl, by simp⟩
theorem frameKeeps_trackers : FrameKeeps State.trackers :=
  ⟨fun _ _ => rfl, fun _ _ => rfl, fun _ _ => rfl, fun _ _ => rfl, fun _ _ => rfl, by simp⟩
theorem frameKeeps_sideWalkers : FrameKeeps (fun s => s.map.sideWalker) :=
  ⟨fun _ _ => rfl, fun _ _ => rfl, fun _ _ => rfl, fun _ _ => rfl, fun _ _ => rfl,
    fun r s => congrArg (·.sideWalker) (appendDamage_map r s)⟩
/-- Of intake, only the position moves with a frame. -/
theorem frameKeeps_intake : FrameKeeps (fun s => { s.intake with position := 0 }) :=
  ⟨fun _ _ => rfl, fun _ _ => rfl, fun _ _ => rfl, fun _ _ => rfl, fun _ _ => rfl,
    fun r s => by simp⟩

@[simp] theorem writeFrames_beside (p : Nat) (fs : List (Quad HistEntry)) (s : State) :
    (writeFrames p fs s).beside = s.beside := writeFrames_keeps frameKeeps_beside p fs s
@[simp] theorem writeParcel_beside (p : Nat) (fs : List (Quad HistEntry)) (s : State) :
    (writeParcel p fs s).beside = s.beside := (boundary_beside _).trans (writeFrames_beside p fs s)

@[simp] theorem admitParcel_beside (p : Nat) (fs : List RawFrame) (s : State) :
    (admitParcel p fs s).beside = s.beside := by
  unfold admitParcel
  exact (writeParcel_beside p _ _)

theorem fillParcels_beside (p n : Nat) (s : State) : (fillParcels p n s).beside = s.beside := by
  induction n generalizing p s with
  | zero => rfl
  | succ n ih => rw [fillParcels, ih, writeParcel_beside]

@[simp] theorem fillGap_beside (p n : Nat) (s : State) : (fillGap p n s).beside = s.beside := fillParcels_beside p n s

/-! ### Pass start and pass ends -/

/-- The blocks of one side at pass start keep what the detectors, repairs, delays, trackers, resamplers, partial parcels,
cues, counters and side walkers do not hold. -/
theorem startSide_keeps {γ : Type} {g : State → γ} (h : ProductionKeeps g)
    (hd : ∀ (s : State) x, g { s with detectors := x } = g s) (ht : ∀ (s : State) x, g { s with trackers := x } = g s)
    (p : Nat) (s : State) (d : Side) : g (startSide p s d) = g s := by
  have hl : ∀ s l, g (startLane s l) = g s := by
    intro s l
    unfold startLane
    generalize (if inUse s l then s.detectors.modify l startDetector else s.detectors) = x
    generalize (if inUse s l then s.repairs.set l startRepair else s.repairs) = y
    rw [← hd s x, ← h.repairs { s with detectors := x } y]
    exact h.lanes { s with detectors := x, repairs := y } _
  have hb : ∀ s, g (startBlocks p s d) = g s := by
    intro s
    unfold startBlocks
    generalize s.trackers.modify d (startTracker true) = w
    generalize s.resamplers.set d (startResampler p s.intake.applied.window) = x
    rw [← ht s w, ← h.resamplers { s with trackers := w } x,
      ← h.sides { s with trackers := w, resamplers := x } (s.eqSides.set d EqSide.reset)]
    exact h.partials { s with trackers := w, resamplers := x, eqSides := s.eqSides.set d EqSide.reset } _
  unfold startSide
  split
  · rw [seekSide_keeps g h.cues h.counters h.trackers h.walkers, hb, foldl_keeps g _ hl]
  · exact ht s _

@[simp] theorem passStart_beside (p : Nat) (s : State) : (passStart p s).beside = s.beside :=
  foldl_keeps State.beside _ (startSide_keeps productionKeeps_beside (fun _ _ => rfl) (fun _ _ => rfl) p) _
    (withIntakeWalker (intakeSeek (beginPass p s).map.entries p) (beginPass p s))

@[simp] theorem closePass_beside (s : State) : (closePass s).beside = s.beside := by
  unfold closePass
  dsimp only
  rw [installPending_keeps State.beside (fun _ _ _ _ => rfl)]
  rfl

@[simp] theorem flushedEnd_beside (s : State) : (flushedEnd s).beside = s.beside := by
  unfold flushedEnd
  rw [closePass_beside, foldl_keeps State.beside _ (flushSide_keeps eqKeeps_beside), endDetectors_beside]

@[simp] theorem discardingEnd_beside (s : State) : (discardingEnd s).beside = s.beside := by
  unfold discardingEnd
  rw [closePass_beside, foldl_keeps State.beside _ (discardSide_keeps eqKeeps_beside), endDetectors_beside]

@[simp] theorem endIfRunning_beside (s : State) : (endIfRunning s).beside = s.beside := by
  unfold endIfRunning
  split
  · exact flushedEnd_beside s
  · rfl

@[simp] theorem noteBreak_beside (s : State) : (noteBreak s).beside = s.beside := rfl

/-- A RAW parcel changes nothing beside the stream: no unit or link register, no setting, no directive, no map entry,
nothing in the store (R67). -/
@[simp] theorem takeRaw_beside (p : Nat) (fs : List RawFrame) (s : State) : (takeRaw p fs s).beside = s.beside := by
  unfold takeRaw
  split
  · rfl
  · split
    · rw [endIfRunning_beside, noteBreak_beside]
    · split
      · unfold continueWith
        split
        · simp [breakWith, startWith]
        · split
          · exact admitParcel_beside _ _ _
          · split
            · simp
            · simp [breakWith, startWith]
      · simp [startWith]

@[simp] theorem takeTransport_beside (code : Nat) (s : State) : (takeTransport code s).beside = s.beside := by
  unfold takeTransport
  split
  · rfl
  · dsimp only
    split
    · exact endIfRunning_beside s
    · rfl

@[simp] theorem endForReset_beside (s : State) : (endForReset s).beside = s.beside := by
  unfold endForReset
  split
  · exact discardingEnd_beside s
  · exact installPending_keeps State.beside (fun _ _ _ _ => rfl) s

@[simp] theorem abandonForReset_beside (s : State) : (abandonForReset s).beside = s.beside := by
  unfold abandonForReset
  split <;> rfl

/-- The engine reset changes nothing beside the stream (R176). -/
@[simp] theorem engineReset_beside (s : State) : (engineReset s).beside = s.beside := by
  have ha : ∀ t, (applyPending t).beside = t.beside := fun _ => rfl
  have hc : ∀ t, (emptyCues t).beside = t.beside := fun _ => rfl
  have ht : ∀ t, (resetTrim t).beside = t.beside := fun _ => rfl
  unfold engineReset
  rw [ha, hc, ht, abandonForReset_beside, endForReset_beside]

/-! ### Any projection -/

/-- What a pass end keeps: what the detectors' ends, the flush or the discard, and the close of the pass all keep. -/
structure EndKeeps {γ : Type} (g : State → γ) : Prop extends EqKeeps g where
  detectors : ∀ (s : State) x, g { s with detectors := x } = g s
  appended : ∀ r s, g (appendDamage r s) = g s
  trackers : ∀ (s : State) x, g { s with trackers := x } = g s
  stopped : ∀ s, g (stopWalkers s) = g s
  closed : ∀ s : State, g { s with intake := { s.intake with running := false, expected := none } } = g s
  tables : ∀ (s : State) k q x, g { s with kernel := k, eqSets := q, stager := x } = g s

theorem closePass_keeps {γ : Type} {g : State → γ} (h : EndKeeps g) (s : State) : g (closePass s) = g s := by
  unfold closePass
  dsimp only
  rw [installPending_keeps g h.tables, h.closed, h.stopped, h.trackers]

theorem flushedEnd_keeps {γ : Type} {g : State → γ} (h : EndKeeps g) (s : State) : g (flushedEnd s) = g s := by
  unfold flushedEnd
  rw [closePass_keeps h, foldl_keeps g _ (flushSide_keeps h.toEqKeeps), endDetectors_keeps g h.detectors h.counters h.appended]

theorem discardingEnd_keeps {γ : Type} {g : State → γ} (h : EndKeeps g) (s : State) : g (discardingEnd s) = g s := by
  unfold discardingEnd
  rw [closePass_keeps h, foldl_keeps g _ (discardSide_keeps h.toEqKeeps),
    endDetectors_keeps g h.detectors h.counters h.appended]

theorem endIfRunning_keeps {γ : Type} {g : State → γ} (h : EndKeeps g) (s : State) : g (endIfRunning s) = g s := by
  unfold endIfRunning
  split
  · exact flushedEnd_keeps h s
  · rfl

theorem endForReset_keeps {γ : Type} {g : State → γ} (h : EndKeeps g) (s : State) : g (endForReset s) = g s := by
  unfold endForReset
  split
  · exact discardingEnd_keeps h s
  · exact installPending_keeps g h.tables s

end Sys2Proof.Machine
end

