-- ==== Sys2Proof/Laws/Commands.lean ====
section
/-! SUPPORT. What a command can do to a state, said once: the shared operation of the directives, and the closure of a
property under every operation a command is made of, which makes it an invariant of every command and every step. -/

namespace Sys2Proof.Machine

/-! ### Directives -/

/-- All that routing a directive to the engine can do: with 4 answers waiting it is dropped, counted, and
DIRECTIVE_OVERRUN raised; else it is executed and its answer joins the tail (R159). -/
theorem runDirective_cases (kind tag : Byte) (act : State → State × Reply) (s : State) :
    (4 ≤ s.directives.length ∧ runDirective kind tag act s =
      raise .directiveOverrun (withCounters (fun k => { k with directivesDropped := countUp k.directivesDropped 1 }) s)) ∨
    (s.directives.length < 4 ∧ runDirective kind tag act s =
      { countRefused (act s).2.code (act s).1 with
        directives := (countRefused (act s).2.code (act s).1).directives ++
          [⟨kind, tag, (act s).2.code, (act s).2.result⟩] }) := by
  unfold runDirective
  by_cases h : 4 ≤ s.directives.length
  · exact .inl ⟨h, by rw [if_pos h]⟩
  · exact .inr ⟨by omega, by rw [if_neg h]⟩

/-- What a good directive is once it is counted and its copy offered (R8, R12). -/
def routed (h : Header) (body : List Byte) (s : State) : State :=
  if addressIn h.addr = s.unit.unitAddress then countReceived .D s
  else offerUpstream ⟨kindDirective, h.addr, h.tag, body⟩ (countReceived .D s)

/-- All that taking a directive can do: nothing before the autoload has ended; else it is routed, and executed when it is
meant for this unit (R8, R12). -/
theorem takeDirective_cases (h : Header) (body : List Byte) (act : State → State × Reply) (s : State) :
    (receiving s = false ∧ takeDirective h body act s = s) ∨
    (receiving s = true ∧ meantFor s.unit.unitAddress h.addr = true ∧
      takeDirective h body act s = runDirective (directiveKind body) h.tag act (routed h body s)) ∨
    (receiving s = true ∧ meantFor s.unit.unitAddress h.addr = false ∧ takeDirective h body act s = routed h body s) := by
  unfold takeDirective
  cases hr : receiving s with
  | false => exact .inl ⟨rfl, by simp⟩
  | true =>
    refine .inr ?_
    by_cases hm : addressIn h.addr = s.unit.unitAddress ∨ addressIn h.addr = broadcast
    · exact .inl ⟨rfl, by simpa [meantFor] using hm, by simp [hm, routed]⟩
    · exact .inr ⟨rfl, by simpa [meantFor] using hm, by simp [hm, routed]⟩

@[simp] theorem countReceived_directives (p : Port) (s : State) : (countReceived p s).directives = s.directives := by
  cases p <;> rfl

@[simp] theorem countReceived_unit (p : Port) (s : State) : (countReceived p s).unit = s.unit := by
  cases p <;> rfl

@[simp] theorem offerUpstream_directives (x : Parcel) (s : State) : (offerUpstream x s).directives = s.directives := by
  unfold offerUpstream
  split <;> rfl

@[simp] theorem routed_directives (h : Header) (body : List Byte) (s : State) : (routed h body s).directives = s.directives := by
  unfold routed
  split <;> simp

@[simp] theorem countRefused_directives (c : AnswerCode) (s : State) : (countRefused c s).directives = s.directives := by
  unfold countRefused
  split <;> rfl

/-! ### A property kept by every operation of a command -/

/-- A property closed under every operation that commands are made of. -/
structure CommandKeeps (P : State → Prop) : Prop where
  settled : ∀ s, P s → P (settleLines s)
  straps : ∀ x s, P s → P (setStraps x s)
  resetLine : ∀ b s, P s → P (setResetLine b s)
  resetBlocks : ∀ f c s, P s → P (resetBlocks f c s)
  beginStartUp : ∀ s, P s → P (beginStartUp s)
  damaged : ∀ x s, P s → P (withStore (damageSlots x) s)
  autoload : ∀ s, P s → P (autoload s)
  alive : ∀ p b s, P s → P { s with link := { s.link with alive := s.link.alive.set p b } }
  linked : ∀ p x s, P s → P { s with link := { s.link with link := s.link.link.set p x } }
  raised : ∀ k s, P s → P (raise k s)
  counted : ∀ f s, P s → P (withCounters f s)
  cut : ∀ p s, P s → P (cutTransmission p s)
  ended : ∀ s, P s → P (endIfRunning s)
  dropped : ∀ p t s, P s → P (dropParcel p t s)
  raw : ∀ (x : BitVec 32) (fs : List RawFrame) s, fs.length = 16 → P s → P (takeRaw x.toNat fs s)
  transport : ∀ c s, P s → P (takeTransport c s)
  down : ∀ x s, P s → P (offerDownstream x s)
  up : ∀ x s, P s → P (offerUpstream x s)
  startUp : ∀ s, P s → P (startUpstream s)
  completeUp : ∀ s, P s → P (completeUpstream s)
  choice : ∀ s, P s → P (makeChoice s)
  removed : ∀ x a s, P s → P (removeHead x { s with arbiter := a })
  answered : ∀ a s, s.directives.length < 4 → P s → P { s with directives := s.directives ++ [a] }
  address : ∀ a s, P s → P (replySetAddress a s).1
  setting : ∀ i v s, P s → P (replyWriteSetting i v s).1
  insert : ∀ c l a b x s, P s → P (replyMapInsert c l a b x s).1
  delete : ∀ i s, P s → P (replyMapDelete i s).1
  clear : ∀ s, P s → P (replyMapClear s).1
  loadBegin : ∀ t s, P s → P (replyLoadBegin t s).1
  loadChunk : ∀ i (ws : List (BitVec 32)) s, ws.length = 32 → P s → P (replyLoadChunk i ws s).1
  loadEnd : ∀ x s, P s → P (replyLoadEnd x s).1
  abandoned : ∀ s, P s → P (abandonLoad s)
  ack : ∀ x s, P s → P (replyAckEvents x s).1
  save : ∀ n m s, P s → P (replyProfileSave n m s).1
  erase : ∀ n s, P s → P (replyProfileErase n s).1
  recalled : ∀ n s, P s → P (replyProfileRecall n s).1
  engine : ∀ s, P s → P (engineReset s)
  completed : ∀ s, P s → P (withStore completeStore s)
  duty : ∀ s, P s → P (takeUpDuty s)
  timer : ∀ f : Stager → Option LoadTimer, ∀ s, P s → P (withStager (fun g => { g with timer := f g }) s)
  elapsed : ∀ s, P s → P (withStore (fun x => { x with elapsed := x.elapsed + 1 }) s)
  startUpMs : ∀ s, s.unit.startUpMs + 1 < 6 → P s → P { s with unit := { s.unit with startUpMs := s.unit.startUpMs + 1 } }

/-- A reply leaves the directive queue as it is (R159, R176). -/
def KeepsQueue (act : State → State × Reply) : Prop := ∀ s, (act s).1.directives = s.directives

namespace CommandKeeps

variable {P : State → Prop}

theorem received (h : CommandKeeps P) (p : Port) (s : State) (hs : P s) : P (countReceived p s) := by
  cases p <;> simp only [countReceived] <;> exact h.counted _ _ hs

theorem directive (h : CommandKeeps P) {act : State → State × Reply} (hq : KeepsQueue act) (ha : ∀ s, P s → P (act s).1)
    (x : Header) (body : List Byte) (s : State) (hs : P s) : P (takeDirective x body act s) := by
  have hr : P (routed x body s) := by
    unfold routed
    split
    · exact h.received _ _ hs
    · exact h.up _ _ (h.received _ _ hs)
  rcases takeDirective_cases x body act s with ⟨-, e⟩ | ⟨-, -, e⟩ | ⟨-, -, e⟩
  · rw [e]; exact hs
  · rw [e]
    rcases runDirective_cases (directiveKind body) x.tag act (routed x body s) with ⟨-, e⟩ | ⟨hl, e⟩
    · rw [e]; exact h.raised _ _ (h.counted _ _ hr)
    · rw [e]
      apply h.answered
      · rw [countRefused_directives, hq]; exact hl
      · unfold countRefused
        split
        · exact h.counted _ _ (ha _ hr)
        · exact ha _ hr
  · rw [e]; exact hr

theorem unitReset (h : CommandKeeps P) (c : ResetCause) (s : State) (hs : P s) : P (unitReset c s) := by
  unfold Machine.unitReset
  split
  · exact h.resetBlocks _ _ _ hs
  · exact h.beginStartUp _ (h.resetBlocks _ _ _ hs)

theorem abandonEvent (h : CommandKeeps P) (s : State) (hs : P s) : P (abandonWithEvent s) :=
  h.raised _ _ (h.abandoned _ hs)

theorem portUp (h : CommandKeeps P) (p : Port) (s : State) (hs : P s) : P (portUp p s) := by
  unfold Machine.portUp
  dsimp only
  split
  · exact h.linked p _ _ (h.alive p _ _ hs)
  · exact h.alive p _ _ hs

theorem portDown (h : CommandKeeps P) (p : Port) (s : State) (hs : P s) : P (portDown p s) := by
  unfold Machine.portDown
  dsimp only
  split
  · have hu := h.cut p _ (h.raised .portDown _ (h.linked p .down _ (h.alive p false _ hs)))
    cases p
    · exact h.ended _ hu
    · dsimp only
      split
      · exact h.unitReset _ _ hu
      · exact hu
  · exact h.alive p _ _ hs

theorem transmitted (h : CommandKeeps P) (s : State) (hs : P s) : P (completeTransmission s) := by
  unfold completeTransmission
  split
  · exact hs
  · dsimp only
    split
    · exact h.unitReset _ _ (h.removed _ _ _ hs)
    · exact h.removed _ _ _ hs

end CommandKeeps

/-! ### Writes and installations, for any projection -/

/-- What dropping a parcel keeps: all but the counters, the link-error counts and what raising LINK_DEGRADED changes. -/
theorem dropParcel_keeps {γ : Type} (g : State → γ) (hr : ∀ k s, g (raise k s) = g s)
    (hc : ∀ f s, g (withCounters f s) = g s)
    (he : ∀ (s : State) e, g { s with link := { s.link with errors := e } } = g s) (p : Port) (t : ReceiverTest) (s : State) :
    g (dropParcel p t s) = g s := by
  have ha : ∀ p s, g (addLinkError p s) = g s := by
    intro p s
    unfold addLinkError
    dsimp only
    split
    · rw [hr, he]
    · exact he _ _
  unfold dropParcel
  rw [ha]
  cases t <;> cases p <;> simp only [countCheckError, countMalformed, hc]

/-- What storing a setting keeps: all but the table, the trackers' steps, the lines and what raising LINK_DEGRADED
changes (R168). -/
theorem storeSetting_keeps {γ : Type} (g : State → γ) (hs : ∀ (s : State) x, g { s with settings := x } = g s)
    (ht : ∀ (s : State) x, g { s with trackers := x } = g s) (hl : ∀ (s : State) x, g { s with lines := x } = g s)
    (hr : ∀ k s, g (raise k s) = g s) (n : SettingId) (v : Int) (s : State) : g (storeSetting n v s) = g s := by
  have hw : ∀ s, g (writeEffect n s) = g s := by
    intro s
    cases n <;> simp only [writeEffect, restartTrim, hl, ht]
    unfold compareLinkErrors
    split
    · exact hr _ _
    · rfl
  unfold storeSetting
  rw [hw, hs]

/-- What writing a whole profile keeps (R182, R184). -/
theorem writeProfile_keeps {γ : Type} (g : State → γ) (hs : ∀ (s : State) x, g { s with settings := x } = g s)
    (ht : ∀ (s : State) x, g { s with trackers := x } = g s) (hl : ∀ (s : State) x, g { s with lines := x } = g s)
    (hr : ∀ k s, g (raise k s) = g s) (t : Settings) (s : State) : g (writeProfile t s) = g s :=
  foldl_keeps g _ (fun s n => storeSetting_keeps g hs ht hl hr n _ s) _ _

/-- What marking an installation keeps (R77). -/
theorem markInstall_keeps {γ : Type} (g : State → γ)
    (h : ∀ (s : State) k q x, g { s with kernel := k, eqSets := q, stager := x } = g s) (i : Install) (s : State) :
    g (markInstall i s) = g s := by
  unfold markInstall
  dsimp only
  split
  · exact h s s.kernel s.eqSets _
  · rw [installPending_keeps g h]
    exact h s s.kernel s.eqSets _

/-! ### No reply changes the directive queue -/

theorem storeSetting_directives (n : SettingId) (v : Int) (s : State) : (storeSetting n v s).directives = s.directives :=
  storeSetting_keeps State.directives (fun _ _ => rfl) (fun _ _ => rfl) (fun _ _ => rfl) (fun _ _ => rfl) n v s

theorem writeProfile_directives (t : Settings) (s : State) : (writeProfile t s).directives = s.directives :=
  writeProfile_keeps State.directives (fun _ _ => rfl) (fun _ _ => rfl) (fun _ _ => rfl) (fun _ _ => rfl) t s

theorem markInstall_directives (i : Install) (s : State) : (markInstall i s).directives = s.directives :=
  markInstall_keeps State.directives (fun _ _ _ _ => rfl) i s

theorem engineReset_directives (s : State) : (engineReset s).directives = s.directives :=
  congrArg (fun x => x.2.2.2.1) (engineReset_beside s)

theorem keepsQueue_setAddress (a : Byte) : KeepsQueue (replySetAddress a) := by
  intro s; unfold replySetAddress; split <;> rfl
theorem keepsQueue_readSetting (i : Byte) : KeepsQueue (replyReadSetting i) := by
  intro s; unfold replyReadSetting; split <;> rfl
theorem keepsQueue_writeSetting (i : Byte) (v : BitVec 32) : KeepsQueue (replyWriteSetting i v) := by
  intro s
  unfold replyWriteSetting
  split
  · rfl
  · split
    · exact storeSetting_directives _ _ _
    · rfl
theorem keepsQueue_insert (c l : Byte) (a b x : BitVec 32) : KeepsQueue (replyMapInsert c l a b x) := by
  intro s; unfold replyMapInsert; split <;> rfl
theorem keepsQueue_delete (i : BitVec 16) : KeepsQueue (replyMapDelete i) := by
  intro s
  unfold replyMapDelete
  dsimp only
  split
  · rfl
  · split
    · rfl
    · split <;> rfl
theorem keepsQueue_read (i : BitVec 16) : KeepsQueue (replyMapRead i) := by
  intro s
  unfold replyMapRead
  dsimp only
  split
  · split <;> rfl
  · rfl
theorem keepsQueue_loadBegin (t : Byte) : KeepsQueue (replyLoadBegin t) := by
  intro s
  unfold replyLoadBegin
  split
  · rfl
  · split <;> rfl
theorem keepsQueue_loadChunk (i : Byte) (w : List (BitVec 32)) : KeepsQueue (replyLoadChunk i w) := by
  intro s
  unfold replyLoadChunk
  dsimp only
  split
  · rfl
  · split
    · rfl
    · split <;> rfl
theorem keepsQueue_loadEnd (x : BitVec 32) : KeepsQueue (replyLoadEnd x) := by
  intro s
  unfold replyLoadEnd
  dsimp only
  split
  · rfl
  · split
    · rfl
    · exact markInstall_directives _ _
theorem keepsQueue_loadCancel : KeepsQueue replyLoadCancel := by
  intro s; unfold replyLoadCancel; split <;> rfl
theorem keepsQueue_ack (x : BitVec 16) : KeepsQueue (replyAckEvents x) := by
  intro s
  unfold replyAckEvents
  dsimp only
  split <;> rfl
theorem keepsQueue_snapshot (c : Byte) : KeepsQueue (replySnapshot c) := by
  intro s
  unfold replySnapshot
  dsimp only
  split
  · rfl
  · split <;> rfl
theorem keepsQueue_save (n m : Byte) : KeepsQueue (replyProfileSave n m) := by
  intro s
  unfold replyProfileSave
  split
  · rfl
  · split <;> rfl
theorem keepsQueue_erase (n : Byte) : KeepsQueue (replyProfileErase n) := by
  intro s; unfold replyProfileErase; split <;> rfl
theorem keepsQueue_recall (n : Byte) : KeepsQueue (replyProfileRecall n) := by
  intro s
  unfold replyProfileRecall
  split
  · rfl
  · split
    · rfl
    · split
      · rfl
      · split
        · rfl
        · exact (markInstall_directives _ _).trans (writeProfile_directives _ _)

namespace CommandKeeps

variable {P : State → Prop}

/-- The state a command that runs to its end reaches. -/
def Ends (P : State → Prop) (o : Host.Outcome State Fault Refusal) : Prop := ∀ t, o = .next t → P t

theorem ends_done (h : CommandKeeps P) (s : State) (hs : P s) : Ends P (done s) := by
  intro t e
  cases e
  exact h.settled _ hs

theorem readOnly (s : State) (hs : P s) (r : Reply) : P ((s, r) : State × Reply).1 := hs

/-- Every directive keeps the property. -/
theorem onDirective (h : CommandKeeps P) {act : State → State × Reply} (hq : KeepsQueue act)
    (ha : ∀ s, P s → P (act s).1) (x : Header) (body : List Byte) (s : State) (hs : P s) :
    Ends P (done (takeDirective x body act s)) :=
  h.ends_done _ (h.directive hq ha x body s hs)

theorem readSettingKeeps (i : Byte) (s : State) (hs : P s) : P (replyReadSetting i s).1 := by
  unfold replyReadSetting; split <;> exact hs

theorem mapReadKeeps (i : BitVec 16) (s : State) (hs : P s) : P (replyMapRead i s).1 := by
  unfold replyMapRead
  dsimp only
  split
  · split <;> exact hs
  · exact hs

theorem loadCancelKeeps (h : CommandKeeps P) (s : State) (hs : P s) : P (replyLoadCancel s).1 := by
  unfold replyLoadCancel
  split
  · exact h.abandoned _ hs
  · exact hs

theorem snapshotKeeps (h : CommandKeeps P) (c : Byte) (s : State) (hs : P s) : P (replySnapshot c s).1 := by
  unfold replySnapshot
  dsimp only
  split
  · exact hs
  · split
    · exact h.counted (fun _ => Counters.zero) _ hs
    · exact hs

theorem rawKeeps (h : CommandKeeps P) (x : BitVec 32) (fs : Vector RawFrame 16) (s : State) (hs : P s) :
    Ends P (execRawParcel x fs s) := by
  unfold execRawParcel
  refine h.ends_done _ ?_
  split
  · exact h.raw x _ _ (by simp) (h.received _ _ hs)
  · exact hs

theorem deckKeeps (h : CommandKeeps P) (x : Header) (c : Byte) (s : State) (hs : P s) : Ends P (execDeckParcel x c s) := by
  unfold execDeckParcel
  refine h.ends_done _ ?_
  split
  · exact h.down _ _ (h.transport _ _ (h.received _ _ hs))
  · exact hs

theorem reportKeeps (h : CommandKeeps P) (x : Header) (b : List Byte) (s : State) (hs : P s) :
    Ends P (execConverterReport x b s) := by
  unfold execConverterReport
  refine h.ends_done _ ?_
  split
  · exact h.down _ _ (h.received _ _ hs)
  · exact hs

theorem resetUnitKeeps (h : CommandKeeps P) (x : Header) (s : State) (hs : P s) : Ends P (execResetUnit x s) := by
  have ht := h.directive (act := replyResetUnit) (fun _ => rfl) (fun _ hs => hs) x (directiveBody (.resetUnit x)) s hs
  unfold execResetUnit
  refine h.ends_done _ ?_
  split
  · exact h.unitReset _ _ ht
  · exact ht

/-- A good parcel, handed on, keeps the property. -/
theorem handOnKeeps (h : CommandKeeps P) (i : Instr) (s : State) (hs : P s) : Ends P (handOn i s) := by
  have d {act : State → State × Reply} (hq : KeepsQueue act) (ha : ∀ s, P s → P (act s).1) (x : Header) (b : List Byte) :=
    h.onDirective hq ha x b s hs
  have n := h.ends_done s hs
  cases i with
  | rawParcel x fs => exact h.rawKeeps x fs s hs
  | deckParcel x c => exact h.deckKeeps x c s hs
  | converterReport x b => exact h.reportKeeps x b s hs
  | directiveForOtherUnit x b => exact d (act := replyUnknown) (fun _ => rfl) (fun _ hs => hs) x b
  | unknownDirective x b => exact d (act := replyUnknown) (fun _ => rfl) (fun _ hs => hs) x b
  | identify x => exact d (act := replyIdentify) (fun _ => rfl) (fun _ hs => hs) x _
  | status x => exact d (act := replyStatus) (fun _ => rfl) (fun _ hs => hs) x _
  | setAddress x a => exact d (keepsQueue_setAddress a) (h.address a) x _
  | readSetting x i => exact d (keepsQueue_readSetting i) (readSettingKeeps i) x _
  | writeSetting x i v => exact d (keepsQueue_writeSetting i v) (h.setting i v) x _
  | mapInsert x c l a b v => exact d (keepsQueue_insert c l a b v) (h.insert c l a b v) x _
  | mapDelete x i => exact d (keepsQueue_delete i) (h.delete i) x _
  | mapRead x i => exact d (keepsQueue_read i) (mapReadKeeps i) x _
  | mapClear x => exact d (act := replyMapClear) (fun _ => rfl) h.clear x _
  | loadBegin x t => exact d (keepsQueue_loadBegin t) (h.loadBegin t) x _
  | loadChunk x i w => exact d (keepsQueue_loadChunk i _) (fun s => h.loadChunk i w.toList s (by simp)) x _
  | loadEnd x v => exact d (keepsQueue_loadEnd v) (h.loadEnd v) x _
  | loadCancel x => exact d keepsQueue_loadCancel h.loadCancelKeeps x _
  | ackEvents x v => exact d (keepsQueue_ack v) (h.ack v) x _
  | snapshotCounters x c => exact d (keepsQueue_snapshot c) (h.snapshotKeeps c) x _
  | profileSave x a b => exact d (keepsQueue_save a b) (h.save a b) x _
  | profileErase x a => exact d (keepsQueue_erase a) (h.erase a) x _
  | profileRecall x a => exact d (keepsQueue_recall a) (h.recalled a) x _
  | resetEngine x => exact d (act := replyResetEngine) engineReset_directives h.engine x _
  | resetUnit x => exact h.resetUnitKeeps x s hs
  | _ => exact n

theorem deliverKeeps (h : CommandKeeps P) (p : Port) (b : List Byte) (s : State) (hs : P s) : Ends P (deliver p b s) := by
  unfold deliver
  split
  · split
    · exact h.ends_done _ (h.dropped _ _ _ hs)
    · exact h.handOnKeeps _ _ hs
  · exact h.ends_done _ hs

/-- Every command keeps the property. -/
theorem exec_preserves (h : CommandKeeps P) (i : Instr) (s t : State) (hs : P s) (e : exec i s = .next t) : P t := by
  have d {act : State → State × Reply} (hq : KeepsQueue act) (ha : ∀ s, P s → P (act s).1) (x : Header) (b : List Byte) :=
    h.onDirective hq ha x b s hs
  suffices Ends P (exec i s) from this t e
  cases i with
  | powerOn x => exact h.ends_done _ (h.unitReset _ _ (h.straps _ _ hs))
  | resetLineAssert =>
    refine h.ends_done _ ?_
    split
    · exact h.resetLine _ _ hs
    · exact h.unitReset _ _ (h.resetLine _ _ hs)
  | resetLineRelease x =>
    refine h.ends_done _ ?_
    split
    · exact h.unitReset _ _ (h.straps _ _ (h.resetLine _ _ hs))
    · exact h.straps _ _ (h.resetLine _ _ hs)
  | autoloadComplete x =>
    refine h.ends_done _ ?_
    split
    · exact h.autoload _ (h.damaged _ _ hs)
    · exact hs
  | portGoesUp p => exact h.ends_done _ (h.portUp p s hs)
  | portGoesDown p => exact h.ends_done _ (h.portDown p s hs)
  | parcelCheckFailed p b => exact h.deliverKeeps p b s hs
  | rawParcel x fs => exact h.rawKeeps x fs s hs
  | deckParcel x c => exact h.deckKeeps x c s hs
  | converterReport x b => exact h.reportKeeps x b s hs
  | directiveForOtherUnit x b =>
    show Ends P (execDirectiveForOtherUnit x b s)
    unfold execDirectiveForOtherUnit
    split
    · exact h.deliverKeeps _ _ s hs
    · exact d (act := replyUnknown) (fun _ => rfl) (fun _ hs => hs) x b
  | upstreamTransmitStart => exact h.ends_done _ (h.startUp s hs)
  | upstreamForwardTransmitted => exact h.ends_done _ (h.completeUp s hs)
  | arbiterChoice => exact h.ends_done _ (h.choice s hs)
  | parcelTransmitted => exact h.ends_done _ (h.transmitted s hs)
  | unknownDirective x b =>
    show Ends P (execUnknownDirective x b s)
    unfold execUnknownDirective
    split
    · exact h.deliverKeeps _ _ s hs
    · exact d (act := replyUnknown) (fun _ => rfl) (fun _ hs => hs) x b
  | loadTimerExpiry =>
    refine h.ends_done _ ?_
    split
    · exact h.abandonEvent _ hs
    · exact hs
  | profileSaveComplete =>
    refine h.ends_done _ ?_
    split
    · exact h.completed _ hs
    · exact hs
  | profileEraseComplete =>
    refine h.ends_done _ ?_
    split
    · exact h.completed _ hs
    · exact hs
  | parcelDroppedDuringStartUp p b => exact h.deliverKeeps p b s hs
  | powerLoss => exact h.ends_done _ (h.resetBlocks _ _ _ hs)
  | trimPulsePeriod => exact h.ends_done _ (h.duty s hs)
  | identify x => exact h.handOnKeeps (.identify x) s hs
  | status x => exact h.handOnKeeps (.status x) s hs
  | setAddress x a => exact h.handOnKeeps (.setAddress x a) s hs
  | readSetting x i => exact h.handOnKeeps (.readSetting x i) s hs
  | writeSetting x i v => exact h.handOnKeeps (.writeSetting x i v) s hs
  | mapInsert x c l a b v => exact h.handOnKeeps (.mapInsert x c l a b v) s hs
  | mapDelete x i => exact h.handOnKeeps (.mapDelete x i) s hs
  | mapRead x i => exact h.handOnKeeps (.mapRead x i) s hs
  | mapClear x => exact h.handOnKeeps (.mapClear x) s hs
  | loadBegin x t => exact h.handOnKeeps (.loadBegin x t) s hs
  | loadChunk x i w => exact h.handOnKeeps (.loadChunk x i w) s hs
  | loadEnd x v => exact h.handOnKeeps (.loadEnd x v) s hs
  | loadCancel x => exact h.handOnKeeps (.loadCancel x) s hs
  | ackEvents x v => exact h.handOnKeeps (.ackEvents x v) s hs
  | snapshotCounters x c => exact h.handOnKeeps (.snapshotCounters x c) s hs
  | profileSave x a b => exact h.handOnKeeps (.profileSave x a b) s hs
  | profileErase x a => exact h.handOnKeeps (.profileErase x a) s hs
  | profileRecall x a => exact h.handOnKeeps (.profileRecall x a) s hs
  | resetEngine x => exact h.handOnKeeps (.resetEngine x) s hs
  | resetUnit x => exact h.handOnKeeps (.resetUnit x) s hs

/-- The tick keeps the property. -/
theorem tick_preserves (h : CommandKeeps P) (s : State) (hs : P s) : P (tick s) := by
  have h1 : P (tickLoad s) := by
    unfold tickLoad
    split
    · split
      · exact h.abandonEvent _ hs
      · exact h.timer _ _ hs
    · exact hs
  have h2 : ∀ s, P s → P (tickStore s) := by
    intro s hs
    unfold tickStore
    split
    · exact hs
    · split
      · exact h.completed _ hs
      · exact h.elapsed _ hs
  have h3 : P (tickStartUp s) := by
    unfold tickStartUp
    split
    · exact h.autoload _ hs
    · exact h.startUpMs _ (by omega) hs
  unfold tick
  split
  · exact hs
  · exact hs
  · exact h.duty _ h3
  · exact h.duty _ (h2 _ h1)

/-- Every step keeps the property, when taking a command from the queue does. -/
theorem step_preserves (h : CommandKeeps P) (hq : ∀ s q, P s → P { s with pending := q }) (s t : State) (hs : P s)
    (e : step s = .next t) : P t := by
  unfold step at e
  split at e
  · cases e
    exact h.settled _ (h.tick_preserves s hs)
  · exact h.exec_preserves _ _ _ (hq _ _ hs) e

end CommandKeeps

end Sys2Proof.Machine
end

