-- ==== Sys2Proof/Laws/Closure.lean ====
section
/-! SUPPORT. A property closed under the primitive changes of the audio stream holds after every operation of the
stream: a parcel taken, a pass ended, the engine reset. -/

namespace Sys2Proof.Machine

/-- Dropping a parcel keeps what counting, a link-error count's rise and raising an event keep (R6, R8, R9). -/
theorem dropParcel_preserves (P : State → Prop) (hc : ∀ f s, P s → P (withCounters f s)) (hr : ∀ k s, P s → P (raise k s))
    (he : ∀ p (s : State), P s →
      P { s with link := { s.link with errors := s.link.errors.set p (min (s.link.errors.get p + 1) 65535) } })
    (p : Port) (t : ReceiverTest) (s : State) (hs : P s) : P (dropParcel p t s) := by
  have ha : ∀ s, P s → P (addLinkError p s) := by
    intro s hs
    unfold addLinkError
    dsimp only
    split
    · exact hr _ _ (he p s hs)
    · exact he p s hs
  unfold dropParcel
  apply ha
  have hk : P (countCheckError p s) := by cases p <;> simp only [countCheckError] <;> exact hc _ _ hs
  have hm : P (countMalformed s) := hc _ _ hs
  cases t <;> first | exact hk | exact hm

/-- The update of a tracker at a boundary keeps what counting, raising, the trim loop and any change of the trackers
keep (R42). -/
theorem updateTracker_preserves (P : State → Prop) (hc : ∀ f s, P s → P (withCounters f s))
    (hr : ∀ k s, P s → P (raise k s)) (ht : ∀ (s : State) x, P s → P { s with trackers := x })
    (hm : ∀ d s, P s → P (trimCount d s)) (d : Side) (s : State) (hs : P s) : P (updateTracker d s) := by
  unfold updateTracker
  split
  · dsimp only
    apply hm
    have hk : ∀ j x, P (countUpdate d j { s with trackers := x }) := fun j x => hc _ _ (ht s _ hs)
    split
    · exact hr _ _ (hk _ _)
    · exact hk _ _
  · exact hs

/-- A property closed under every primitive change the audio stream makes, for properties that the walkers and intake
do not bear on. -/
structure StreamKeeps (P : State → Prop) : Prop where
  counted : ∀ f s, P s → P (withCounters f s)
  raised : ∀ k s, P s → P (raise k s)
  history : ∀ (s : State) x, P s → P { s with history := x }
  intake : ∀ (s : State) x, P s → P { s with intake := x }
  detectors : ∀ (s : State) x, P s → P { s with detectors := x }
  updated : ∀ d s, P s → P (updateTracker d s)
  forced : ∀ d e s, P s → P (withTracker d (forceTracker e) s)
  unforced : ∀ d e s, P s → P (withTracker d (unforceTracker e) s)
  trackerStarted : ∀ (s : State) d b, P s → P { s with trackers := s.trackers.modify d (startTracker b) }
  trackersEnded : ∀ s : State, P s → P { s with trackers := ⟨endTracker s.trackers.a, endTracker s.trackers.b⟩ }
  resamplers : ∀ (s : State) x, P s → P { s with resamplers := x }
  repairs : ∀ (s : State) x, P s → P { s with repairs := x }
  walkers : ∀ (s : State) a b, P s → P { s with map := { s.map with intakeWalker := a, sideWalker := b } }
  freeCount : ∀ (s : State) n, P s → P { s with freeCount := n }
  restarted : ∀ s, P s → P (restartTrim s)
  appended : ∀ r s, P s → P (appendDamage r s)
  cued : ∀ c s, P s → P (appendCue c s)
  laneTaken : ∀ l v r s, P s → P { s with eqLanes := s.eqLanes.modify l (shiftLane v r) }
  laneStarted : ∀ (s : State) l, P s → P { s with eqLanes := s.eqLanes.set l EqLane.reset }
  sideFilled : ∀ (s : State) d r, (s.eqSides.get d).fill < 31 → P s →
    P { s with eqSides := s.eqSides.set d { s.eqSides.get d with
          fill := (s.eqSides.get d).fill + 1, frames := (r :: (s.eqSides.get d).frames).take 31 } }
  sideShifted : ∀ (s : State) d r, P s →
    P { s with eqSides := s.eqSides.set d { s.eqSides.get d with frames := (r :: (s.eqSides.get d).frames).take 31 } }
  sideFlushing : ∀ d b s, P s → P (setFlushing d b s)
  sideStarted : ∀ (s : State) d, P s → P { s with eqSides := s.eqSides.set d EqSide.reset }
  partialStarted : ∀ (s : State) d, P s → P { s with partials := s.partials.set d [] }
  assembled : ∀ d f s, P s → P (assemble d f s)
  queued : ∀ d p s, P s → P (queueClean d p s)
  queueCut : ∀ (s : State) d, P s → P { s with cleanQueues := s.cleanQueues.set d (keptClean d s) }
  installed : ∀ s, P s → P (installPending s)

namespace StreamKeeps

variable {P : State → Prop}

theorem marked (h : StreamKeeps P) (l : Lane) (p : Nat) (s : State) (hs : P s) : P (markFrame l p s) :=
  h.counted _ _ (h.history s _ hs)

theorem closed (h : StreamKeeps P) (l : Lane) (d : Detector) (stop : Nat) (cut : Bool) (s : State) (hs : P s) :
    P (closeRun l d stop cut s) := h.appended _ _ (h.counted _ _ hs)

theorem presented (h : StreamKeeps P) (l : Lane) (p : Nat) (s : State) (hs : P s) : P (presentFrame l p s) := by
  obtain ⟨x, t, -, ht, e⟩ := presentFrame_eq l p s
  have hp : P t := by
    rw [ht]
    exact markRun_preserves P l (h.marked l) _ _ _ (h.detectors s _ hs)
  rcases e with ⟨-, e⟩ | ⟨stop, -, e⟩
  · rw [e]; exact hp
  · rw [e]; exact h.closed _ _ _ _ _ hp

theorem frame (h : StreamKeeps P) (p : Nat) (f : Quad HistEntry) (s : State) (hs : P s) : P (writeFrame p f s) := by
  unfold writeFrame
  refine foldl_preserves P _ (fun s l hs => h.presented l p s hs) _ _ ?_
  have ht := foldl_preserves P (fun t l => writeHistory l p (f.get l) t) (fun s l hs => h.history s _ hs) (lanesInUse s) s hs
  exact h.walkers _ _ _ (h.intake _ _ ht)

theorem frames (h : StreamKeeps P) (p : Nat) (fs : List (Quad HistEntry)) (s : State) (hs : P s) :
    P (writeFrames p fs s) := by
  induction fs generalizing p s with
  | nil => exact hs
  | cons f rest ih => exact ih _ _ (h.frame _ _ _ hs)

theorem activated (h : StreamKeeps P) (d : Side) (b : Bool) (s : State) (e : MapEntry) (hs : P s) :
    P (activateEntry d b s e) := by
  have hw : ∀ f, P (withSideWalker d f s) := fun f => h.walkers s s.map.intakeWalker _ hs
  unfold activateEntry
  dsimp only
  split
  · exact h.forced _ _ _ (hw _)
  · split
    · exact hw _
    · exact h.cued _ _ (hw _)
  · exact hw _

theorem endedEntry (h : StreamKeeps P) (d : Side) (s : State) (e : MapEntry) (hs : P s) : P (endEntry d s e) := by
  have hw : ∀ f, P (withSideWalker d f s) := fun f => h.walkers s s.map.intakeWalker _ hs
  unfold endEntry
  dsimp only
  split
  · exact h.unforced _ _ _ (hw _)
  · exact h.cued _ _ (hw _)
  · exact hw _

theorem walkedPosition (h : StreamKeeps P) (d : Side) (x : Nat) (s : State) (hs : P s) : P (walkPosition d x s) := by
  unfold walkPosition
  dsimp only
  have hw : ∀ f (s : State), P s → P (withSideWalker d f s) := fun f s hs => h.walkers s s.map.intakeWalker _ hs
  exact hw _ _ (foldl_preserves P _ (fun s e hs => h.activated d false s e hs) _ _
    (foldl_preserves P _ (fun s e hs => h.endedEntry d s e hs) _ _ hs))

theorem walkedFrom (h : StreamKeeps P) (d : Side) (x n : Nat) (s : State) (hs : P s) : P (walkFrom d x n s) := by
  induction n generalizing x s with
  | zero => exact hs
  | succ n ih => exact ih _ _ (h.walkedPosition d _ s hs)

theorem walked (h : StreamKeeps P) (d : Side) (x : Nat) (s : State) (hs : P s) : P (walkTo d x s) := by
  unfold walkTo
  dsimp only
  split
  · exact h.walkedFrom _ _ _ _ hs
  · exact hs

theorem sought (h : StreamKeeps P) (d : Side) (p : Nat) (s : State) (hs : P s) : P (seekSide d p s) := by
  unfold seekSide
  exact foldl_preserves P _ (fun s e hs => h.activated d true s e hs) _ _ (h.walkers s s.map.intakeWalker _ hs)

theorem putOut (h : StreamKeeps P) (d : Side) (r : FrameRecord) (s : State) (hs : P s) : P (putOut d r s) := by
  have hc : ∀ l f s, P s → P (countClip l f s) := by
    intro l f s hs
    unfold countClip
    split
    · exact h.raised _ _ (h.counted _ _ hs)
    · exact hs
  unfold Machine.putOut
  exact h.assembled _ _ _ (hc _ _ _ (hc _ _ _ hs))

theorem taken (h : StreamKeeps P) (d : Side) (a b : LaneIntake) (r : Option FrameRecord) (s : State) (hs : P s) :
    P (eqIntake d a b r s) := by
  have hl : ∀ l x s, P s → P (takeLane l x s) := by
    intro l x s hs
    unfold takeLane
    split
    · exact h.laneTaken _ _ _ _ hs
    · exact hs
  have ht := hl (secondLane d) b _ (hl (firstLane d) a _ hs)
  unfold eqIntake
  dsimp only
  split
  · next hf => exact h.sideFilled _ _ _ hf ht
  · split
    · exact h.putOut _ _ _ (h.sideShifted _ _ _ ht)
    · exact h.sideShifted _ _ _ ht

theorem completed (h : StreamKeeps P) (d : Side) (s : State) (hs : P s) : P (completePartial d s) := by
  unfold completePartial
  split
  · exact hs
  · exact h.queued _ _ _ (h.partialStarted s d hs)

theorem handedOn (h : StreamKeeps P) (d : Side) (x y : Option LaneInput) (s : State) (hs : P s) :
    P (handOnFrame d x y s) := by
  have hr : ∀ l a b s, P s → P (repairLane l a b s).2 := by
    intro l a b s hs
    unfold repairLane
    cases a with
    | none => exact hs
    | some v =>
      simp only [countRepair]
      exact h.counted _ _ (h.repairs s _ hs)
  unfold handOnFrame
  exact h.taken _ _ _ _ _ (h.counted _ _ (hr _ _ _ _ (hr _ _ _ _ hs)))

theorem producedFrame (h : StreamKeeps P) (d : Side) (s : State) (hs : P s) : P (produceFrame d s) := by
  unfold produceFrame
  exact h.resamplers _ _ (h.handedOn _ _ _ _ (h.walked _ _ _ (h.resamplers s _ hs)))

theorem produced (h : StreamKeeps P) (d : Side) (s : State) (hs : P s) : P (production d s) := by
  have hp : ∀ n s, P s → P (produceUpTo d n s) := by
    intro n
    induction n with
    | zero => exact fun _ hs => hs
    | succ n ih =>
      intro s hs
      unfold produceUpTo
      split
      · exact ih _ (h.producedFrame d s hs)
      · exact hs
  unfold production
  split
  · exact hp _ _ hs
  · exact hs

theorem bounded (h : StreamKeeps P) (s : State) (hs : P s) : P (boundary s) := by
  unfold boundary
  refine h.installed _ (foldl_preserves P _ ?_ _ _ (h.freeCount s _ hs))
  intro s w hs
  cases w with
  | update d => exact h.updated d s hs
  | produce d => exact h.produced d s hs

theorem parcel (h : StreamKeeps P) (p : Nat) (fs : List (Quad HistEntry)) (s : State) (hs : P s) :
    P (writeParcel p fs s) := h.bounded _ (h.frames _ _ _ hs)

theorem admitted (h : StreamKeeps P) (p : Nat) (fs : List RawFrame) (s : State) (hs : P s) : P (admitParcel p fs s) :=
  h.intake _ _ (h.parcel _ _ _ (h.counted _ _ hs))

theorem gapFilled (h : StreamKeeps P) (p n : Nat) (s : State) (hs : P s) : P (fillGap p n s) := by
  have hf : ∀ n p s, P s → P (fillParcels p n s) := by
    intro n
    induction n with
    | zero => exact fun _ _ hs => hs
    | succ n ih => exact fun p s hs => ih _ _ (h.parcel _ _ _ hs)
  exact h.counted _ _ (h.raised _ _ (hf _ _ _ hs))

theorem startedLane (h : StreamKeeps P) (l : Lane) (s : State) (hs : P s) : P (startLane s l) := by
  unfold startLane
  generalize (if inUse s l then s.detectors.modify l startDetector else s.detectors) = x
  generalize (if inUse s l then s.repairs.set l startRepair else s.repairs) = y
  exact h.laneStarted { s with detectors := x, repairs := y } l (h.repairs { s with detectors := x } y (h.detectors s x hs))

theorem startedBlocks (h : StreamKeeps P) (p : Nat) (d : Side) (s : State) (hs : P s) : P (startBlocks p s d) := by
  unfold startBlocks
  have hw := h.trackerStarted s d true hs
  generalize s.trackers.modify d (startTracker true) = w at hw ⊢
  generalize s.resamplers.set d (startResampler p s.intake.applied.window) = x
  exact h.partialStarted { s with trackers := w, resamplers := x, eqSides := s.eqSides.set d EqSide.reset } d
    (h.sideStarted { s with trackers := w, resamplers := x } d (h.resamplers { s with trackers := w } x hw))

theorem startedSide (h : StreamKeeps P) (p : Nat) (s : State) (d : Side) (hs : P s) : P (startSide p s d) := by
  unfold startSide
  split
  · exact h.sought _ _ _ (h.startedBlocks _ _ _ (foldl_preserves P _ (fun s l hs => h.startedLane l s hs) _ _ hs))
  · exact h.trackerStarted s d false hs

theorem began (h : StreamKeeps P) (p : Nat) (s : State) (hs : P s) : P (beginPass p s) := by
  have e : beginPass p s = { s with intake := (beginPass p s).intake, history := Quad.fill [] } := rfl
  rw [e]
  generalize (beginPass p s).intake = x
  exact h.history { s with intake := x } _ (h.intake s x hs)

theorem started (h : StreamKeeps P) (p : Nat) (s : State) (hs : P s) : P (passStart p s) := by
  unfold passStart
  have hb := h.began p s hs
  exact h.restarted _ (foldl_preserves P _ (fun s d hs => h.startedSide p s d hs) _ _
    (h.walkers _ _ (beginPass p s).map.sideWalker hb))

theorem endedDetectors (h : StreamKeeps P) (s : State) (hs : P s) : P (endDetectors s) := by
  unfold endDetectors
  refine foldl_preserves P _ ?_ _ _ hs
  intro s l hs
  unfold endDetector
  dsimp only
  split
  · exact h.detectors s _ hs
  · exact h.detectors s _ hs
  · exact h.closed _ _ _ _ _ (h.detectors s _ hs)
  · exact h.closed _ _ _ _ _ (h.detectors s _ hs)

theorem flushed (h : StreamKeeps P) (s : State) (d : Side) (hs : P s) : P (flushSide s d) := by
  have hf : ∀ n s, P s → P (flushIntakes d n s) := by
    intro n
    induction n with
    | zero => exact fun _ hs => hs
    | succ n ih => exact fun s hs => ih _ (h.taken _ _ _ _ _ hs)
  unfold flushSide
  split
  · exact h.completed _ _ (h.sideFlushing _ _ _ (hf _ _ (h.sideFlushing _ _ _ hs)))
  · exact hs

theorem discarded (h : StreamKeeps P) (s : State) (d : Side) (hs : P s) : P (discardSide s d) := by
  unfold discardSide
  split
  · exact h.counted _ _ (h.partialStarted { s with cleanQueues := s.cleanQueues.set d (keptClean d s) } d (h.queueCut s d hs))
  · exact hs

theorem closedPass (h : StreamKeeps P) (s : State) (hs : P s) : P (closePass s) := by
  unfold closePass
  exact h.installed _ (h.intake _ _ (h.walkers _ _ _ (h.trackersEnded s hs)))

theorem endFlushed (h : StreamKeeps P) (s : State) (hs : P s) : P (flushedEnd s) :=
  h.closedPass _ (foldl_preserves P _ (fun s d hs => h.flushed s d hs) _ _ (h.endedDetectors s hs))

theorem endDiscarded (h : StreamKeeps P) (s : State) (hs : P s) : P (discardingEnd s) :=
  h.closedPass _ (foldl_preserves P _ (fun s d hs => h.discarded s d hs) _ _ (h.endedDetectors s hs))

theorem endedIfRunning (h : StreamKeeps P) (s : State) (hs : P s) : P (endIfRunning s) := by
  unfold endIfRunning
  split
  · exact h.endFlushed s hs
  · exact hs

/-- Taking a RAW parcel keeps the property. -/
theorem raw (h : StreamKeeps P) (p : Nat) (fs : List RawFrame) (s : State) (hs : P s) : P (takeRaw p fs s) := by
  have hn : ∀ s, P s → P (noteBreak s) := fun s hs => h.raised _ _ (h.counted _ _ hs)
  have hb : P (breakWith p fs s) := h.admitted _ _ _ (h.started _ _ (hn _ (h.endFlushed s hs)))
  unfold takeRaw
  split
  · exact h.counted _ _ hs
  · split
    · exact h.endedIfRunning _ (hn s hs)
    · split
      · unfold continueWith
        split
        · exact hb
        · split
          · exact h.admitted _ _ _ hs
          · split
            · exact h.admitted _ _ _ (h.gapFilled _ _ _ hs)
            · exact hb
      · exact h.admitted _ _ _ (h.started _ _ hs)

/-- Taking a transport state keeps the property. -/
theorem transport (h : StreamKeeps P) (c : Nat) (s : State) (hs : P s) : P (takeTransport c s) := by
  unfold takeTransport
  split
  · exact hs
  · dsimp only
    split
    · exact h.intake _ _ (h.endedIfRunning s hs)
    · exact h.intake _ _ hs

/-- The engine reset keeps the property, when abandoning a load, the duty's return and emptying the cues do. -/
theorem engine (h : StreamKeeps P) (ha : ∀ s, P s → P (abandonLoad s))
    (hd : ∀ s : State, P s → P { s with lines := { s.lines with duty := 128 } }) (hc : ∀ s, P s → P (emptyCues s))
    (s : State) (hs : P s) : P (engineReset s) := by
  have h1 : P (endForReset s) := by
    unfold endForReset
    split
    · exact h.endDiscarded s hs
    · exact h.installed s hs
  have h2 : P (abandonForReset (endForReset s)) := by
    unfold abandonForReset
    split
    · exact h.raised _ _ (ha _ h1)
    · exact h1
  exact h.intake _ _ (hc _ (h.restarted _ (hd _ h2)))

end StreamKeeps

end Sys2Proof.Machine
end

