-- ==== Sys2Proof/Laws/Memory.lean ====
section
/-! SUPPORT. The lane history (R30): reading after writing, and that every operation on it keeps the canonical form. -/

namespace Sys2Proof.Machine

/-! ### One ring -/

theorem ringRead_cons_self (i : Nat) (e : HistEntry) (r : Ring) (h : ∀ x ∈ r, i < x.1) :
    ringRead (ringCons i e r) i = e := by
  unfold ringCons
  split
  · next he =>
    subst he
    induction r with
    | nil => rfl
    | cons x rest ih =>
      have hx := h x (by simp)
      simp only [ringRead]
      rw [if_neg (by omega)]
      exact ih fun y hy => h y (by simp [hy])
  · simp [ringRead]

theorem ringRead_cons_other (i j : Nat) (e : HistEntry) (r : Ring) (h : j ≠ i) :
    ringRead (ringCons i e r) j = ringRead r j := by
  unfold ringCons
  split
  · rfl
  · simp [ringRead, h]

theorem ringRead_below (r : Ring) (i : Nat) (h : ∀ x ∈ r, i < x.1) : ringRead r i = cleared := by
  induction r with
  | nil => rfl
  | cons x rest ih =>
    have hx := h x (by simp)
    simp only [ringRead]
    rw [if_neg (by omega)]
    exact ih fun y hy => h y (by simp [hy])

/-- Reading the entry just written gives it (R30). -/
theorem ringRead_write_same (r : Ring) (i : Nat) (e : HistEntry) (h : r.Pairwise fun x y => x.1 < y.1) :
    ringRead (ringWrite r i e) i = e := by
  induction r with
  | nil => exact ringRead_cons_self i e [] (by simp)
  | cons x rest ih =>
    obtain ⟨j, v⟩ := x
    rw [List.pairwise_cons] at h
    simp only [ringWrite]
    split
    · next hij =>
      apply ringRead_cons_self
      intro y hy
      rcases List.mem_cons.mp hy with rfl | hy
      · exact hij
      · exact lt_trans hij (h.1 y hy)
    · split
      · next hij =>
        subst hij
        exact ringRead_cons_self i e rest h.1
      · next h1 h2 =>
        simp only [ringRead]
        rw [if_neg h2]
        exact ih h.2

/-- Writing one entry leaves every other as it was (R30). -/
theorem ringRead_write_other (r : Ring) (i j : Nat) (e : HistEntry) (h : j ≠ i) :
    ringRead (ringWrite r i e) j = ringRead r j := by
  induction r with
  | nil => exact ringRead_cons_other i j e [] h
  | cons x rest ih =>
    obtain ⟨k, v⟩ := x
    simp only [ringWrite]
    split
    · exact ringRead_cons_other i j e _ h
    · split
      · next hik =>
        subst hik
        rw [ringRead_cons_other i j e _ h]
        simp [ringRead, h]
      · simp only [ringRead]
        split
        · rfl
        · exact ih

theorem ringWrite_mem (r : Ring) (i : Nat) (e : HistEntry) (x : Nat × HistEntry) (h : x ∈ ringWrite r i e) :
    (x = (i, e) ∧ e ≠ cleared) ∨ x ∈ r := by
  have hc : ∀ r : Ring, x ∈ ringCons i e r → (x = (i, e) ∧ e ≠ cleared) ∨ x ∈ r := by
    intro r hx
    unfold ringCons at hx
    split at hx
    · exact .inr hx
    · next hn =>
      rcases List.mem_cons.mp hx with rfl | hx
      · exact .inl ⟨rfl, hn⟩
      · exact .inr hx
  induction r with
  | nil => exact hc [] h
  | cons y rest ih =>
    obtain ⟨j, v⟩ := y
    simp only [ringWrite] at h
    split at h
    · exact hc _ h
    · split at h
      · rcases hc _ h with h | h
        · exact .inl h
        · exact .inr (by simp [h])
      · rcases List.mem_cons.mp h with rfl | h
        · exact .inr (by simp)
        · rcases ih h with h | h
          · exact .inl h
          · exact .inr (by simp [h])

/-- Writing an entry below index 2,048 keeps the canonical form of a ring (R30). -/
theorem ringWrite_wf (r : Ring) (i : Nat) (e : HistEntry) (hi : i < 2048) (h : Ring.wf r) : Ring.wf (ringWrite r i e) := by
  refine ⟨?_, ?_⟩
  · obtain ⟨hp, hm⟩ := h
    clear hm
    have hc : ∀ r : Ring, r.Pairwise (fun x y => x.1 < y.1) → (∀ x ∈ r, i < x.1) →
        (ringCons i e r).Pairwise fun x y => x.1 < y.1 := by
      intro r hr hx
      unfold ringCons
      split
      · exact hr
      · exact List.pairwise_cons.mpr ⟨hx, hr⟩
    induction r with
    | nil => exact hc [] hp (by simp)
    | cons y rest ih =>
      obtain ⟨j, v⟩ := y
      have hp' := List.pairwise_cons.mp hp
      simp only [ringWrite]
      split
      · next hij =>
        apply hc _ hp
        intro x hx
        rcases List.mem_cons.mp hx with rfl | hx
        · exact hij
        · exact lt_trans hij (hp'.1 x hx)
      · split
        · next hij =>
          subst hij
          exact hc _ hp'.2 hp'.1
        · next h1 h2 =>
          refine List.pairwise_cons.mpr ⟨?_, ih hp'.2⟩
          intro x hx
          rcases ringWrite_mem _ _ _ _ hx with ⟨rfl, -⟩ | hx
          · show j < i
            omega
          · exact hp'.1 x hx
  · intro x hx
    rcases ringWrite_mem _ _ _ _ hx with ⟨rfl, hn⟩ | hx
    · exact ⟨hi, hn⟩
    · exact h.2 x hx

theorem ringIndex_lt (p : Nat) : ringIndex p < 2048 := Nat.mod_lt _ (by decide)

/-! ### The whole history -/

/-- Reading the history entry just written gives it. -/
theorem historyAt_write_same (l : Lane) (p : Nat) (e : HistEntry) (s : State) (h : Memory.wf s.history) :
    historyAt (writeHistory l p e s) l p = e := by
  unfold historyAt writeHistory
  simp only [Quad.get_modify, if_true]
  exact ringRead_write_same _ _ _ (h l).1

/-- Writing one entry leaves every entry of another lane, and of another index, as it was. -/
theorem historyAt_write_other (l m : Lane) (p q : Nat) (e : HistEntry) (s : State)
    (h : m ≠ l ∨ ringIndex q ≠ ringIndex p) : historyAt (writeHistory l p e s) m q = historyAt s m q := by
  unfold historyAt writeHistory
  simp only [Quad.get_modify]
  split
  · next hm =>
    rcases h with h | h
    · exact absurd hm h
    · exact ringRead_write_other _ _ _ _ h
  · rfl

/-- Writing an entry keeps the canonical form of the history. -/
theorem writeHistory_wf (l : Lane) (p : Nat) (e : HistEntry) (s : State) (h : HistoryCanonical s) :
    HistoryCanonical (writeHistory l p e s) := by
  intro m
  show Ring.wf ((s.history.modify l fun r => ringWrite r (ringIndex p) e).get m)
  rw [Quad.get_modify]
  split
  · exact ringWrite_wf _ _ _ (ringIndex_lt p) (h m)
  · exact h m

/-- Marking a frame keeps the canonical form. -/
theorem markFrame_wf (l : Lane) (p : Nat) (s : State) (h : HistoryCanonical s) : HistoryCanonical (markFrame l p s) :=
  writeHistory_wf l p _ s h

/-- Clearing the history leaves it in its canonical form: nothing is listed. -/
theorem cleared_wf : Memory.wf (Quad.fill []) := by
  intro l
  rw [Quad.get_fill]
  exact ⟨List.Pairwise.nil, by simp⟩

/-- The history after power-on stands in its canonical form. -/
theorem reset_wf : HistoryCanonical State.reset := cleared_wf

/-- Presenting a frame to a detector keeps the canonical form. -/
theorem presentFrame_wf (l : Lane) (p : Nat) (s : State) (h : HistoryCanonical s) :
    HistoryCanonical (presentFrame l p s) := by
  obtain ⟨x, t, -, ht, e⟩ := presentFrame_eq l p s
  have hk : HistoryCanonical t := by
    rw [ht]
    exact markRun_preserves HistoryCanonical l (fun p s => markFrame_wf l p s) _ _ _ h
  have hc : ∀ stop, HistoryCanonical (closeRun l (s.detectors.get l) stop false t) := by
    intro stop
    unfold HistoryCanonical closeRun
    rw [appendDamage_history]
    exact hk
  rcases e with ⟨-, e⟩ | ⟨stop, -, e⟩
  · rw [e]; exact hk
  · rw [e]; exact hc stop

/-- Writing a frame keeps the canonical form. -/
theorem writeFrame_wf (p : Nat) (f : Quad HistEntry) (s : State) (h : HistoryCanonical s) :
    HistoryCanonical (writeFrame p f s) := by
  unfold writeFrame
  dsimp only
  apply foldl_preserves HistoryCanonical _ (fun s l hs => presentFrame_wf l p s hs)
  exact foldl_preserves HistoryCanonical (fun t l => writeHistory l p (f.get l) t)
    (fun s l hs => writeHistory_wf l p _ s hs) (lanesInUse s) s h

/-- Writing a parcel, with its boundary, keeps the canonical form. -/
theorem writeParcel_wf (p : Nat) (fs : List (Quad HistEntry)) (s : State) (h : HistoryCanonical s) :
    HistoryCanonical (writeParcel p fs s) := by
  have hf : ∀ (fs : List (Quad HistEntry)) p s, HistoryCanonical s → HistoryCanonical (writeFrames p fs s) := by
    intro fs
    induction fs with
    | nil => exact fun _ _ hs => hs
    | cons f rest ih => exact fun p s hs => ih _ _ (writeFrame_wf p f s hs)
  unfold HistoryCanonical writeParcel
  rw [boundary_history]
  exact hf fs p s h

end Sys2Proof.Machine
end

