-- ==== Sys2Proof/Laws/Slots.lean ====
section
/-! SUPPORT. The small lemmas of a profile slot: what is written is valid, what is spoiled is not, and neither change
touches the profile or the serial number (R178, R180, R181). -/

namespace Sys2Proof.Machine

/-- When a slot is valid: it holds a profile, and its check word is the CRC of its contents. -/
theorem slotValid_iff (x : Slot) : slotValid x = true ↔ ∃ p, Slot.Valid x p := by
  unfold slotValid Slot.Valid
  cases x.profile <;> simp

theorem valid_written (p : Profile) (n : Option (BitVec 32)) : Slot.Valid (writtenSlot p n) p := by
  simp [Slot.Valid, writtenSlot]

/-- Slot 0 of a part as manufactured holds the factory profile and is valid (R178). -/
theorem valid_manufactured : Slot.Valid (ProfileStore.manufactured.slots.get 0) factoryProfile :=
  valid_written factoryProfile (some Config.serialNumber)

@[simp] theorem slotValid_written (p : Profile) (n : Option (BitVec 32)) : slotValid (writtenSlot p n) = true := by
  simp [slotValid, writtenSlot]

@[simp] theorem slotValid_erased : slotValid Slot.erased = false := rfl

@[simp] theorem invalidate_profile (x : Slot) : (invalidate x).profile = x.profile := by
  unfold invalidate; split <;> rfl

@[simp] theorem invalidate_serial (x : Slot) : (invalidate x).serial = x.serial := by
  unfold invalidate; split <;> rfl

theorem not_self (b : BitVec 16) : ~~~b ≠ b := by
  intro h
  have := congrArg (·.getLsbD 0) h
  simp at this

@[simp] theorem slotValid_invalidate (x : Slot) : slotValid (invalidate x) = false := by
  unfold slotValid
  rw [invalidate_profile, invalidate_serial]
  cases h : x.profile with
  | none => rfl
  | some p =>
    have hc : (invalidate x).check = ~~~slotCheck p x.serial := by unfold invalidate; rw [h]
    simp only [hc, beq_eq_false_iff_ne]
    exact not_self _

end Sys2Proof.Machine
end

