-- ==== Sys2Proof/Tests/Slice0.lean ====
section
/-! SUPPORT. The model's own tests. Expected values come from the spec's worked sequences and tables, or from hand
calculation from its rules; each test names its source. The theorems named `witness_…` show, for each statement with
hypotheses, concrete states and operands that meet them, clause by clause. -/

set_option Elab.async false

open Sys2Proof Sys2Proof.Machine

namespace Sys2Proof.Tests

/-! ### Well-formed commands -/

/-- R7: a CONVERTER REPORT body of 257 bytes is refused. -/
theorem test_report_too_long : (Instr.converterReport ⟨0, 0⟩ (List.replicate 257 0)).wellFormed = false := by decide +kernel

/-- R7: a DIRECTIVE body of 257 bytes is refused, for another unit and of an unknown kind. -/
theorem test_directive_too_long :
    (Instr.directiveForOtherUnit ⟨0, 0⟩ (List.replicate 257 0)).wellFormed = false ∧
    (Instr.unknownDirective ⟨0, 0⟩ (List.replicate 257 0x99)).wellFormed = false := by decide +kernel

/-- 12.4: 0x01 is IDENTIFY, so it is no unknown kind. -/
theorem test_known_kind : (Instr.unknownDirective ⟨0, 0⟩ [0x01]).wellFormed = false := by decide +kernel

/-! ### Bytes and the receiver (R5, R6, R193) -/

/-- R5's procedure over the nine ASCII digits and over one zero byte, by hand calculation. -/
theorem test_check_word :
    (checkWord [0x31, 0x32, 0x33, 0x34, 0x35, 0x36, 0x37, 0x38, 0x39]).toNat = 10673 ∧ (checkWord [0]).toNat = 57840 := by
  decide +kernel

/-- R193: -1 in three bytes, and the low byte last. -/
theorem test_signed_field : signedBE 3 (-1) = [0xFF, 0xFF, 0xFF] ∧ bytesBE 4 258 = [0, 0, 1, 2] := by decide +kernel

/-- R6: the first test each sequence fails. -/
theorem test_receiver_tests :
    testParcel 5 .D [] = .failed .longEnough ∧
    testParcel 5 .D (List.replicate 8 0) = .failed .check ∧
    testParcel 5 .D ([0x5D, 0x31, 5, 0, 0, 0] ++ bytesBE 2 (checkWord [0x5D, 0x31, 5, 0, 0, 0]).toNat) = .failed .lead ∧
    testParcel 5 .D (Parcel.bytes ⟨0x99, 5, 0, []⟩) = .failed .kind ∧
    testParcel 5 .D (Parcel.bytes ⟨0x12, 5, 0, [1]⟩) = .failed .port ∧
    testParcel 5 .D ([0x5C, 0x31, 5, 0, 0, 1] ++ bytesBE 2 (checkWord [0x5C, 0x31, 5, 0, 0, 1]).toNat)
      = .failed .length ∧
    testParcel 5 .D (Parcel.bytes ⟨0x31, 5, 0, [1, 0]⟩) = .failed .allowed := by decide +kernel

/-- 12.1, 12.4: a WRITE SETTING of id 17 to -2 for unit 5, byte by byte, and the command it spells. -/
theorem test_write_setting_parcel :
    Parcel.content ⟨0x31, 5, 7, directiveBody (.writeSetting ⟨5, 7⟩ 17 (-2))⟩
      = [0x5C, 0x31, 5, 7, 0, 6, 0x05, 17, 0xFF, 0xFF, 0xFF, 0xFE] ∧
    commandOf 5 ⟨0x31, 5, 7, [0x05, 17, 0xFF, 0xFF, 0xFF, 0xFE]⟩ = .writeSetting ⟨5, 7⟩ 17 (-2) := by decide +kernel

/-! ### The time base (3.11, R39, R40, R56 to R58) -/

/-- R39 and 3.11: D_nom 68,267 at 100,000 Hz and W 256; D 69,307 gives T 16,525,462. -/
theorem test_target : nominalCount 100000 256 = 68267 ∧ targetFor 100000 256 69307 = 16525462 := by decide +kernel

/-- R40's table of limits. -/
theorem test_range_limits :
    [2, 4, 8, 12].map rangeLow = [16441671, 16106127, 15435038, 14763950] ∧
    [2, 4, 8, 12].map rangeHigh = [17112760, 17448304, 18119393, 18790481] := by decide +kernel

/-- 3.11: one slew of 512, and the last one of 362, toward T. -/
theorem test_slew : slewToward 512 16525462 16777216 = 16776704 ∧ slewToward 512 16525462 16525824 = 16525462 := by decide +kernel

/-! ### The resampler (R76) -/

/-- R76's table of phases. -/
theorem test_factory_kernel :
    coefficients factoryKernel 0 = [0, 16384, 0, 0] ∧ coefficients factoryKernel 1 = [-5, 16376, 16, -3] ∧
    coefficients factoryKernel 256 = [-896, 13440, 4480, -640] ∧
    coefficients factoryKernel 512 = [-1024, 9216, 9216, -1024] := by decide +kernel

/-! ### The detector (5.6) -/

/-- A run of frames, given as carrier-valid and level, examined from a position on with N_in_eff 3, N_out 4, T_eff 64. -/
def examineAll (pos : Nat) : List (Bool × Nat) → Detector → List (DetectorState × Nat × Option Nat)
  | [], _ => []
  | (valid, level) :: rest, d =>
    let e : HistEntry := ⟨0, 0, level, valid, false, false⟩
    let x := examineFrame 3 4 (isLow 64 e) pos e d
    (x.next.state, x.markCount, x.closed) :: examineAll (pos + 1) rest x.next

/-- 5.6's worked run: states, frames marked, and the end at 10,011. -/
theorem test_worked_run :
    examineAll 10000 [(true, 90), (true, 50), (true, 70), (true, 40), (false, 30), (true, 20), (true, 80), (true, 85),
      (true, 10), (true, 80), (true, 80), (true, 80), (true, 80)] Detector.reset =
    [(.clear, 0, none), (.suspect, 0, none), (.clear, 0, none), (.suspect, 0, none), (.suspect, 0, none),
      (.dropout, 3, none), (.recovering, 1, none), (.recovering, 1, none), (.dropout, 1, none), (.recovering, 1, none),
      (.recovering, 1, none), (.recovering, 1, none), (.clear, 0, some 10011)] := by decide +kernel

/-! ### Repair (R99, 5.10) -/

/-- R99's table: the decay of g and the held samples of a last good sample of 1,000,000, and of -1,000,000. -/
theorem test_hold :
    [32767, 32256, 31752, 31256].map (fun g => heldSample ⟨some 1000000, g, true⟩) = [999969, 984375, 968994, 953857] ∧
    [32767, 32256, 31752].map decayGain = [32256, 31752, 31256] ∧
    heldSample ⟨some (-1000000), 32767, true⟩ = -999970 := by decide +kernel

/-! ### Equalizer and gain (R129, R133) -/

/-- R133's two halves. -/
theorem test_gain : gainRaw (-3) 2048 = -1 ∧ gainRaw 3 2048 = 2 := by decide +kernel

/-- R129: the factory set passes the centre sample. -/
theorem test_flat : filterRaw flatEq (List.replicate 31 7 ++ [-1234] ++ List.replicate 31 9) = -1234 := by decide +kernel

/-! ### States for the tests and witnesses -/

/-- The part in operation at unit address 5 with both ports UP. -/
def base : State :=
  { State.reset with
    unit := { State.reset.unit with phase := .running, startUpMs := 6, unitAddress := 5 }
    link := { State.reset.link with alive := ⟨true, true⟩, link := ⟨.up, .up⟩ } }

/-- The same with the transport state PLAY, and the lanes of side A alone enabled from the next pass on. -/
def playing : State :=
  { base with
    intake := { base.intake with transport := .play }
    settings := { base.settings with laneEnable := ⟨true, true, false, false⟩ } }

/-- A directive header for this unit. -/
def here : Header := ⟨5, 9⟩

/-- A map entry. -/
def entry (id : Nat) (c : MapClass) (start stop : Nat) : MapEntry := ⟨id, c, 3, start, stop, 1⟩

/-- The state with these map entries. -/
def withEntries (es : List MapEntry) (s : State) : State := { s with map := { s.map with entries := es } }

/-- A running pass with no side at work, expected at 16. -/
def passing : State :=
  { playing with
    intake := { playing.intake with running := true, position := 15, expected := some 16 }
    map := { playing.map with intakeWalker := { playing.map.intakeWalker with running := true, cursor := 15 } } }

/-- A pass at work on side A with lane 0 alone in use: one frame stands inside the equalizer, one run is open. -/
def working : State :=
  { passing with
    intake := { passing.intake with applied := { passing.intake.applied with laneEnable := ⟨true, false, false, false⟩ } }
    trackers := { passing.trackers with a := { passing.trackers.a with state := .locked } }
    detectors := passing.detectors.set 0 ⟨.dropout, 0, 12, 3, false⟩
    eqLanes := passing.eqLanes.set 0 (shiftLane 7 (some ⟨FlagSet.none, false, 0, 4096⟩) EqLane.reset)
    eqSides := { passing.eqSides with a := ⟨(some ⟨40, 5⟩ :: EqSide.reset.frames).take 31, 1, false⟩ }
    map :=
      { passing.map with
        sideWalker := { passing.map.sideWalker with a := { passing.map.sideWalker.a with running := true } } } }

/-- A profile with empty tables, so that its check word is soon computed. -/
def bare : Profile := ⟨factorySettings, [], Quad.fill []⟩

/-- The store with the bare profile in slots 0 and 1, and slot 1 named by the header or not. -/
def bareStore (header : Fin 4) : ProfileStore where
  slots := ⟨writtenSlot bare (some 7), writtenSlot bare none, Slot.erased, Slot.erased⟩
  header := header
  state := .idle
  elapsed := 0

/-- A state and what it reads as after one command. -/
def after {α : Type} (c : Instr) (s : State) (f : State → α) : Option α :=
  match exec c s with
  | .next t => some (f t)
  | .fault _ => none
  | .refused _ => none

/-- The outcomes of the answers waiting. -/
def codes (s : State) : List AnswerCode := s.directives.map (·.code)

/-! ### Commands -/

/-- R163, 12.4: the items of IDENTIFY at unit address 5 with the serial number 0. -/
theorem test_identify :
    after (.identify here) base State.directives =
      some [⟨1, 9, .ok, [0x0A, 0x43, 1, 0, 0, 0, 0, 0, 5, 0, 0, 4, 2, 0, 64, 4, 0, 63, 4]⟩] := by decide +kernel

/-- R165: 62 is taken, 63 is RANGE. -/
theorem test_set_address :
    after (.setAddress here 62) base (fun t => (t.unit.unitAddress, t.directives)) = some (62, [⟨3, 9, .ok, [5, 62]⟩]) ∧
    after (.setAddress here 63) base (fun t => (t.unit.unitAddress, t.directives)) = some (5, [⟨3, 9, .range, [5, 5]⟩]) := by
  decide +kernel

/-- R167, 9.4: a window of 100 is stored as 128, a speed range of 3 is refused. -/
theorem test_write_setting :
    after (.writeSetting here 6 100) base (fun t => (t.settings.window, t.directives))
      = some (128, [⟨5, 9, .clamped, [6, 0, 0, 0, 128]⟩]) ∧
    after (.writeSetting here 9 3) base (fun t => (t.settings.speedRange, t.directives))
      = some (4, [⟨5, 9, .range, [9, 0, 0, 0, 4]⟩]) := by decide +kernel

/-- R160, R166: id 42 names no setting, and every field of the result is 0. -/
theorem test_read_setting :
    after (.readSetting here 42) base State.directives = some [⟨4, 9, .unknown, [0, 0, 0, 0, 0, 0, 0, 0, 0]⟩] := by decide +kernel

/-- R109 to R111: a GAIN entry takes id 0; an overlapping one of its class on a shared lane is a conflict. -/
theorem test_map_insert :
    after (.mapInsert here 4 1 100 200 4096) base (fun t => (t.map.entries, t.directives)) =
      some ([⟨0, .gain, 1, 100, 200, 4096⟩], [⟨0x10, 9, .ok, [0, 0, 0, 1] ++ List.replicate 10 0⟩]) ∧
    after (.mapInsert here 4 3 199 300 0) (withEntries [⟨0, .gain, 1, 100, 200, 4096⟩] base) State.directives =
      some [⟨0x10, 9, .conflict, [0, 0, 0, 1] ++ List.replicate 10 0⟩] := by decide +kernel

/-- R112: the id of no entry is EMPTY. -/
theorem test_map_delete :
    after (.mapDelete here 0) (withEntries [entry 0 .gain 100 200] base) (fun t => t.map.entries) = some [] ∧
    after (.mapDelete here 1) (withEntries [entry 0 .gain 100 200] base) (fun t => codes t)
      = some [.empty] := by decide +kernel

/-- R113: with no pass running every entry goes. -/
theorem test_map_clear :
    after (.mapClear here) (withEntries [entry 0 .gain 100 200, entry 1 .note 300 400] base)
      (fun t => (t.map.entries, t.directives)) = some ([], [⟨0x13, 9, .ok, [0, 2, 0, 0] ++ List.replicate 10 0⟩]) := by
  decide +kernel

/-- R170 to R172: an EQ set of 32 words is loaded and, with no pass running, installed at once. -/
theorem test_load :
    (after (.loadBegin here 2) base id).bind (fun s =>
      (after (.loadChunk here 0 (Vector.replicate 32 (-1))) s id).bind fun t =>
        after (.loadEnd here (-32)) t fun u => (codes u, u.eqSets.q2, u.stager.loading, u.stager.install))
    = some ([.ok, .ok, .ok], List.replicate 32 (-1), false, .none) := by decide +kernel

/-- R173: the expiry abandons the load with its event. -/
theorem test_load_expiry :
    (after (.loadBegin here 4) base id).bind (fun s =>
      after .loadTimerExpiry s fun t => (t.stager.loading, t.stager.timer, t.flags)) = some (false, none, 0x080) := by
  decide +kernel

/-- R148: acknowledging LINK_DEGRADED clears its flag and both counts. -/
theorem test_ack :
    after (.ackEvents here 0x0040)
      { base with flags := 0x0C0, link := { base.link with errors := ⟨3, 4⟩ } }
      (fun t => (t.flags, t.link.errors.u, t.link.errors.d, t.directives)) = some (0x080, 0, 0, [⟨0x30, 9, .ok, [0, 0x80]⟩]) := by
  decide +kernel

/-- R151: the snapshot's own parcel is counted in its answer, and with clear 1 nothing is left. -/
theorem test_snapshot :
    after (.snapshotCounters here 1) base
      (fun t => (t.directives.map fun a => (a.result.length, a.result.take 8), t.counters.receivedD)) =
      some ([(188, [0, 0, 0, 0, 0, 0, 0, 1])], 0) := by decide +kernel

set_option maxRecDepth 100000 in
/-- R178: a slot whose serial number has changed no longer matches its check word. -/
theorem test_slot_check :
    slotValid (writtenSlot bare (some 7)) = true ∧ slotValid { writtenSlot bare (some 7) with serial := some 6 } = false ∧
    slotValid Slot.erased = false := by decide +kernel

set_option maxRecDepth 100000 in
/-- R180: slot 0 is protected, and a save into slot 1 makes it valid at its completion. -/
theorem test_profile_save :
    after (.profileSave here 0 0) base (fun t => codes t) = some [.protectedSlot] ∧
    (after (.profileSave here 1 1) { base with kernel := [], eqSets := Quad.fill [], store := bareStore 0 } id).bind (fun s =>
      after .profileSaveComplete s fun t => (slotValid s.store.slots.q1, slotValid t.store.slots.q1, t.store.header))
    = some (false, true, 1) := by decide +kernel

set_option maxRecDepth 100000 in
/-- R181, R182: an erased slot is EMPTY to a recall; slot 0 can be recalled. -/
theorem test_profile_recall :
    after (.profileRecall here 1) base (fun t => codes t) = some [.empty] ∧
    after (.profileRecall here 0) { base with settings := { base.settings with slew := 7 }, store := bareStore 0 }
      (fun t => (codes t, t.settings.slew)) = some ([.ok], 512) := by decide +kernel

/-- R181: the erase of the slot the header names falls back to slot 0. -/
theorem test_profile_erase :
    (after (.profileErase here 2) { base with store := { base.store with header := 2 } } id).bind (fun s =>
      after .profileEraseComplete s fun t => (s.store.header, t.store.header, t.store.state)) = some (2, 0, .idle) := by
  decide +kernel

/-- 8.7: the worked round of the arbiter, as the kinds of the parcels sent and the side and debt after each. -/
def arbiterRound : Nat → State → List (Nat × Side × Bool × Nat)
  | 0, _ => []
  | n + 1, s =>
    match exec .arbiterChoice s with
    | .next t =>
      match t.arbiter.sending, exec .parcelTransmitted t with
      | some x, .next u => (x.parcel.kind.toNat, u.arbiter.nextSide, u.arbiter.owed, u.log.length) :: arbiterRound n u
      | _, _ => []
    | _ => []

/-- A CLEAN parcel with no frames, for the tests. -/
def clean (d : Side) : CleanParcel := ⟨d, 1, 0, 0, false, .locked, []⟩

/-- A damage record. -/
def damage : DamageRecord := ⟨0, 10, 20, 0, false, false, 1⟩

/-- The sources of 8.7. -/
def sources : State :=
  { base with
    cleanQueues := ⟨[clean .A, clean .A], [clean .B]⟩
    directives := [⟨1, 9, .ok, []⟩]
    notices := [⟨.streamGap, 1, 5⟩]
    log := [damage, damage] }

/-- 8.7's seven choices. -/
theorem test_arbiter_round :
    arbiterRound 8 sources =
      [(0x41, .B, true, 2), (0x42, .B, false, 2), (0x41, .A, true, 2), (0x43, .A, false, 2), (0x41, .B, true, 2),
        (0x45, .B, false, 1), (0x45, .B, false, 0)] := by decide +kernel

/-- R14: the upstream queue's head is sent and leaves at completion. -/
theorem test_upstream :
    (after (.directiveForOtherUnit ⟨6, 1⟩ [1]) base id).bind (fun s =>
      (after .upstreamTransmitStart s id).bind fun t =>
        after .upstreamForwardTransmitted t fun u => (s.link.upstream.length, t.link.sendingU.isSome, u.link.upstream.length))
    = some (1, true, 0) := by decide +kernel

/-- R15, R17: a DECK parcel with PLAY is taken and joins the downstream queue. -/
theorem test_deck :
    after (.deckParcel ⟨0, 0⟩ 1) base (fun t => (t.intake.transport, t.link.downstream)) =
      some (.play, [⟨0x12, 0, 0, [1]⟩]) := by decide +kernel

/-- R91, R136, R139: STOP cuts the open run and flushes the one frame inside the equalizer into a CLEAN parcel with TAIL. -/
theorem test_deck_stop :
    after (.deckParcel ⟨0, 0⟩ 0) working (fun t => (t.log, t.cleanQueues.a)) =
      some ([⟨0, 12, 15, 3, false, true, 0⟩],
        [⟨.A, 0, 40, 5, false, .locked,
          [⟨⟨7, { FlagSet.none with tail := true }⟩, ⟨0, FlagSet.laneOffOnly⟩, ⟨40, 5⟩⟩]⟩]) := by decide +kernel

/-- Sixteen frames of silence with a good carrier. -/
def quiet : Vector RawFrame 16 := Vector.replicate 16 (Quad.fill ⟨0, 0, 200, true⟩)

/-- R20, R25: the last position a parcel may begin at leaves no expected position; one above is a break. -/
theorem test_raw_edge :
    after (.rawParcel 4294967280 quiet) playing (fun t => (t.intake.position, t.intake.expected, t.intake.running)) =
      some (4294967295, none, true) ∧
    after (.rawParcel 4294967281 quiet) playing (fun t => (t.intake.running, t.counters.streamBreaks)) = some (false, 1) := by
  decide +kernel

/-- R26, R35: one missing parcel is filled with gap frames and pushes a stamp that is not clean; the parcel's own is. -/
theorem test_raw_gap :
    after (.rawParcel 32 quiet) working (fun t =>
      ((ringRead t.history.q0 31).gap, (ringRead t.history.q0 32).gap, (ringRead t.history.q0 32).level,
        t.trackers.a.ringFirst.map (·.clean), t.counters.streamGaps)) =
      some (true, false, 200, [false, true], 1) := by decide +kernel

/-- R19, R21: the first parcel of a pass, on side A's lanes. -/
theorem test_raw_first :
    after (.rawParcel 32 quiet) playing (fun t =>
      (t.intake.passNumber, t.intake.expected, t.trackers.a.state, t.counters.framesAdmitted.q1)) =
      some (1, some 48, .acquire, 16) := by decide +kernel

set_option maxRecDepth 100000 in
/-- R184: with slot 0's check failed and no default, the built-in profile is used and PROFILE_FAULT raised. -/
theorem test_autoload :
    after (.autoloadComplete 1) { State.reset with store := bareStore 0 }
      (fun t => (t.unit.phase, t.unit.autoload, t.unit.serial, t.flags)) = some (.running, .builtin, 0, 0x100) ∧
    after (.autoloadComplete 0) { State.reset with store := bareStore 0 }
      (fun t => (t.unit.phase, t.unit.autoload, t.unit.serial, t.flags)) = some (.running, .default, 7, 0) := by decide +kernel

/-- R11, R183, R191: power-on takes the address from the straps; the reset line holds the part. -/
theorem test_power :
    after (.powerOn 5) State.reset (fun t => (t.unit.unitAddress, t.unit.phase)) = some (5, .startUp) ∧
    (after .resetLineAssert base id).bind (fun s =>
      after (.resetLineRelease 3) s fun t => (s.unit.phase, s.link.link.u, t.unit.phase, t.unit.unitAddress)) =
      some (.held, .down, .startUp, 3) := by decide +kernel

/-- R1: a port that goes DOWN raises PORT_DOWN, one that returns raises nothing. -/
theorem test_ports :
    (after (.portGoesDown .D) base id).bind (fun s =>
      after (.portGoesUp .D) s fun t => (s.link.link.d, s.flags, t.link.link.d, t.flags)) =
      some (.down, 0x400, .up, 0x400) := by decide +kernel

/-- R159: a fifth directive is dropped. -/
theorem test_overrun :
    after (.status here) { base with directives := List.replicate 4 ⟨1, 9, .ok, []⟩ }
      (fun t => (t.directives.length, t.counters.directivesDropped, t.flags)) = some (4, 1, 0x200) := by decide +kernel

/-- R177: the answer to RESET UNIT, once sent, makes the unit reset. -/
theorem test_reset_unit :
    (after (.resetUnit here) base id).bind (fun s =>
      (after .arbiterChoice s id).bind fun t =>
        after .parcelTransmitted t fun u => (s.unit.phase, u.unit.phase, u.unit.resetCause, u.unit.unitAddress)) =
      some (.running, .startUp, .directive, 0) := by decide +kernel

/-- R176: RESET ENGINE ends the pass and keeps the transport state. -/
theorem test_reset_engine :
    after (.resetEngine here) passing (fun t => (t.intake.running, t.intake.expected, t.intake.transport)) =
      some (false, none, .play) := by decide +kernel

/-! ### Witnesses: the hypotheses of the statements can be met -/

/-- A raw frame of silence. -/
def silent : RawFrame := Quad.fill ⟨0, 0, 0, false⟩

/-- `base` in another phase. -/
def inPhase (p : Phase) : State := { base with unit := { base.unit with phase := p } }

/-- `base` with a millisecond count of the store and an operation in progress. -/
def storing (x : StoreState) (ms : Nat) : State := { base with store := { base.store with state := x, elapsed := ms } }

/-- `base` with a load in progress whose timer has counted some milliseconds of 10. -/
def loadingFor (ms : Nat) : State :=
  { base with stager := { base.stager with loading := true, table := some .kernel, expected := 128, timer := some ⟨ms, 10⟩ } }

/-- `base` with some answers waiting. -/
def waiting (n : Nat) (kind : Byte) : State := { base with directives := List.replicate n ⟨kind, 9, .ok, []⟩ }

/-- `base` sending a parcel of a source. -/
def sendingFrom (x : Source) (s : State) : State :=
  { s with arbiter := { s.arbiter with sending := some ⟨x, ⟨0x41, 5, 0, []⟩⟩ } }

theorem witness_StepRunsTheFrontCommand : ({ base with pending := [.arbiterChoice] } : State).pending = .arbiterChoice :: [] :=
  rfl

theorem witness_IdleStepIsOneMillisecond :
    (inPhase .off).pending = [] ∧ (inPhase .off).unit.phase = .off ∧ (inPhase .held).unit.phase = .held ∧
    ({ State.reset with unit := { State.reset.unit with startUpMs := 4 } } : State).unit.startUpMs < 5 ∧
    5 ≤ ({ State.reset with unit := { State.reset.unit with startUpMs := 5 } } : State).unit.startUpMs ∧
    base.unit.phase = .running ∧ base.stager.timer = none ∧ base.store.state = .idle ∧
    (loadingFor 8).stager.timer = some ⟨8, 10⟩ ∧ 8 + 1 < 10 ∧ (loadingFor 9).stager.loading = true ∧
    (loadingFor 9).stager.timer = some ⟨9, 10⟩ ∧ 10 ≤ 9 + 1 ∧ (loadingFor 9).store.state = .idle ∧
    (storing (.saving 1 factoryProfile true) 58).store.state = .saving 1 factoryProfile true ∧
    (storing (.saving 1 factoryProfile true) 58).store.elapsed < 59 ∧
    59 ≤ (storing (.saving 1 factoryProfile true) 59).store.elapsed ∧
    (storing (.erasing 1) 38).store.state = .erasing 1 ∧ (storing (.erasing 1) 38).store.elapsed < 39 ∧
    39 ≤ (storing (.erasing 1) 39).store.elapsed ∧ (storing (.erasing 1) 39).stager.timer = none :=
  ⟨rfl, rfl, rfl, by decide, by decide, rfl, rfl, rfl, rfl, by decide, rfl, rfl, by decide, rfl, rfl, by decide, by decide,
    rfl, by decide, by decide, rfl⟩

theorem witness_PowerOnResetsTheUnit :
    base.unit.resetLine = false ∧ ({ base with unit := { base.unit with resetLine := true } } : State).unit.resetLine = true :=
  ⟨rfl, rfl⟩

theorem witness_ResetLineHoldsAndReleases :
    base.unit.phase ≠ .off ∧ base.unit.phase ≠ .held ∧ (inPhase .off).unit.phase = .off ∧ (inPhase .held).unit.phase = .held :=
  by decide

/-- One store per row of R184's table: the header's slot and slot 0, each valid or not. -/
theorem witness_AutoloadFollowsTheTable :
    let valid := fun (s : State) (damaged : BitVec 4) (n : Fin 4) =>
      damaged.getLsbD n.val = false ∧ ∃ p, Slot.Valid (s.store.slots.get n) p
    let named : State := { State.reset with store := bareStore 1 }
    State.reset.unit.phase = .startUp ∧ named.store.header ≠ 0 ∧
    (valid named 0 1 ∧ valid named 0 0) ∧ (valid named 1 1 ∧ ¬ valid named 1 0) ∧ (¬ valid named 2 1 ∧ valid named 2 0) ∧
    (State.reset.store.header = 0 ∧ valid State.reset 0 0) ∧ (¬ valid named 3 1 ∧ ¬ valid named 3 0) := by
  intro valid named
  have v : ∃ p, Slot.Valid (named.store.slots.get 0) p := ⟨bare, valid_written bare (some 7)⟩
  have w : ∃ p, Slot.Valid (named.store.slots.get 1) p := ⟨bare, valid_written bare none⟩
  exact ⟨rfl, by decide, ⟨⟨by decide, w⟩, ⟨by decide, v⟩⟩, ⟨⟨by decide, w⟩, fun h => absurd h.1 (by decide)⟩,
    ⟨fun h => absurd h.1 (by decide), ⟨by decide, v⟩⟩, ⟨rfl, by decide, factoryProfile, valid_manufactured⟩,
    fun h => absurd h.1 (by decide), fun h => absurd h.1 (by decide)⟩

theorem witness_NothingIsReceivedBeforeOperation :
    State.reset.unit.phase ≠ .running ∧ (parcelOf (.identify here)).isSome = true := by decide

theorem witness_DroppedParcelsAreCountedUnderTheFirstTest :
    base.unit.phase = .running ∧ firstFailure 5 .D (List.replicate 7 0) = some false ∧
    firstFailure 5 .D (List.replicate 8 0) = some true ∧
    firstFailure 5 .D (Parcel.bytes ⟨0x99, 5, 0, []⟩) = some false ∧
    firstFailure 5 .U (Parcel.bytes ⟨0x31, 5, 0, [1]⟩) = some false ∧
    firstFailure 5 .U (Parcel.bytes ⟨0x12, 5, 0, [1, 2]⟩) = some false := by decide +kernel

theorem witness_ParcelsSpellTheirCommands :
    (Instr.identify here).wellFormed = true ∧ parcelOf (.identify here) = some ⟨0x31, 5, 9, [1]⟩ ∧
    (meantFor 5 5 = true ∧ ∀ h body, Instr.identify here ≠ .directiveForOtherUnit h body) ∧
    (Instr.directiveForOtherUnit ⟨6, 1⟩ []).wellFormed = true ∧
    parcelOf (.directiveForOtherUnit ⟨6, 1⟩ []) = some ⟨0x31, 6, 1, []⟩ ∧ meantFor 5 6 = false ∧
    parcelOf (.deckParcel here 1) = some ⟨0x12, 5, 9, [1]⟩ := by
  refine ⟨by decide, by decide, ⟨by decide, fun _ _ h => ?_⟩, by decide, by decide, by decide, by decide⟩
  cases h

theorem witness_PortsFollowTheirAliveSignals :
    State.reset.unit.phase = .startUp ∧ (inPhase .off).unit.phase = .off ∧ State.reset.link.link.get .U = .down ∧
    base.link.link.u = .up ∧ base.intake.running = false ∧ base.link.link.d = .up ∧
    (∀ a ∈ base.directives, a.kind ≠ 0x51) ∧ (∃ a ∈ (waiting 1 0x51).directives, a.kind = 0x51) ∧
    (waiting 1 0x51).unit.resetLine = false ∧ passing.intake.running = true ∧ passing.link.link.u = .up := by decide

theorem witness_ForwardedParcelsJoinTheirQueuesInOrder :
    base.unit.phase = .running ∧ addressIn 6 ≠ base.unit.unitAddress ∧ addressIn 6 ≠ 63#6 ∧
    ({ base with link := { base.link with upstream := [⟨0x31, 6, 1, []⟩] } } : State).link.upstream = ⟨0x31, 6, 1, []⟩ :: [] ∧
    base.link.link.u = .up ∧ base.link.sendingU = none ∧ State.reset.link.link.u = .down ∧
    ({ base with link := { base.link with sendingU := some ⟨0x31, 6, 1, []⟩ } } : State).link.sendingU ≠ none := by decide

theorem witness_ArbiterChoosesByTheThreeSteps :
    State.reset.link.link.d = .down ∧ base.link.link.d = .up ∧ base.arbiter.sending = none ∧
    (¬ NonCleanHolds base ∧ ¬ CleanHolds base) ∧
    (({ sources with arbiter := ⟨.A, true, none⟩ } : State).arbiter.owed = true ∧ NonCleanHolds sources) ∧
    (¬ CleanHolds (waiting 1 1) ∧ NonCleanHolds (waiting 1 1)) ∧ (sources.arbiter.owed = false ∧ CleanHolds sources) := by
  unfold NonCleanHolds CleanHolds
  decide

theorem witness_CleanQueuesAreChosenByTheNextSide :
    sources.link.link.d = .up ∧ sources.arbiter.sending = none ∧ sources.arbiter.owed = false ∧
    sources.cleanQueues.get .A = clean .A :: [clean .A] ∧ sources.arbiter.nextSide = .A ∧
    ({ sources with cleanQueues := ⟨[], [clean .B]⟩ } : State).cleanQueues.get (Side.other .B) = [] ∧
    (sendingFrom (.clean .A) sources).arbiter.sending = some ⟨.clean .A, ⟨0x41, 5, 0, []⟩⟩ := by decide

theorem witness_TransmittedHeadsLeaveTheirSources :
    base.arbiter.sending = none ∧
    (sendingFrom .directive (waiting 1 1)).directives = ⟨1, 9, .ok, []⟩ :: [] ∧ (1 : Byte) ≠ 0x51 ∧
    (sendingFrom .directive (waiting 1 1)).arbiter.sending = some ⟨.directive, ⟨0x41, 5, 0, []⟩⟩ ∧
    (sendingFrom .notice sources).notices = ⟨.streamGap, 1, 5⟩ :: [] ∧
    ({ base with cues := [⟨0, 0, false, .A, 0⟩] } : State).cues = ⟨0, 0, false, .A, 0⟩ :: [] ∧
    ({ base with link := { base.link with downstream := [⟨0x13, 0, 0, []⟩] } } : State).link.downstream
      = ⟨0x13, 0, 0, []⟩ :: [] ∧
    (sendingFrom .damage { base with log := List.replicate 17 damage }).log = damage :: List.replicate 16 damage := by decide

theorem witness_DeckParcelsSetTheTransportState :
    base.unit.phase = .running ∧ (inPhase .startUp).unit.phase ≠ .off ∧
    (sendingFrom .directive (waiting 1 0x51)).directives = ⟨0x51, 9, .ok, []⟩ :: [] ∧
    exec (.portGoesUp .U) base = .next (settleLines base) := by
  refine ⟨rfl, by decide, rfl, rfl⟩

/-- Side A at work with a frame in its equalizer and an open run on its lane, side B in IDLE, the queues within bounds. -/
theorem witness_LeavingPlayEndsThePassFlushed :
    working.unit.phase = .running ∧ working.intake.transport = .play ∧ working.intake.running = true ∧
    working.map.intakeWalker.running = true ∧ (∀ d, (working.map.sideWalker.get d).running = sideActive working d) ∧
    QueuesBounded working ∧ (working.trackers.get .A).state ≠ .idle ∧ (working.trackers.get .B).state = .idle ∧
    working.link.link.d = .up ∧ working.intake.applied.laneEnable.get 0 = true ∧
    working.intake.applied.laneEnable.get 1 = false ∧ framesInside .A working = 1 ∧
    (flushedParcels .A working).length = 1 ∧ (cutRecords working).length = 1 := by
  refine ⟨rfl, rfl, rfl, rfl, fun d => ?_, ⟨by decide, by decide, fun d => ?_, fun d => ?_, by decide, by decide, by decide,
    by decide⟩, by decide, by decide, by decide, by decide, by decide, by decide, by decide +kernel, by decide +kernel⟩ <;>
    cases d <;> decide

theorem witness_RefusedRawParcelsWriteNothing :
    base.unit.phase = .running ∧ base.intake.transport ≠ .play ∧ playing.intake.transport = .play ∧
    4294967280 < (4294967281 : BitVec 32).toNat ∧ playing.intake.running = false := by decide

theorem witness_AdmittedRawParcelsStartAPass :
    playing.unit.phase = .running ∧ playing.intake.transport = .play ∧ playing.intake.running = false ∧
    (4294967280 : BitVec 32).toNat ≤ 4294967280 ∧ ∀ d, (playing.trackers.get d).state = .idle := by
  refine ⟨rfl, rfl, rfl, by decide, fun d => ?_⟩
  cases d <;> rfl

/-- At the expected position, 16 and 64 above it, 80 above it, below it, and with none expected. -/
theorem witness_RunningPassesContinueFillOrBreak :
    passing.unit.phase = .running ∧ passing.intake.transport = .play ∧ passing.intake.running = true ∧
    passing.intake.expected = some (16 : BitVec 32).toNat ∧ (32 : BitVec 32).toNat = 16 + 16 * 1 ∧
    (80 : BitVec 32).toNat = 16 + 16 * 4 ∧
    (∀ n ≤ 4, passing.intake.expected ≠ some ((96 : BitVec 32).toNat - 16 * n) ∨ (96 : BitVec 32).toNat < 16 * n) ∧
    (∀ n ≤ 4, passing.intake.expected ≠ some ((15 : BitVec 32).toNat - 16 * n) ∨ (15 : BitVec 32).toNat < 16 * n) := by
  decide

/-- The clauses on a filled gap: a side at work with a lane in use and one not, and a notice that will be taken. -/
theorem witness_RunningPassesContinueFillOrBreak_gap :
    working.unit.phase = .running ∧ working.intake.transport = .play ∧ working.intake.running = true ∧
    working.intake.expected = some 16 ∧ HistoryCanonical working ∧ (working.trackers.get .A).state ≠ .idle ∧
    working.intake.applied.laneEnable.get 0 = true ∧ working.intake.applied.laneEnable.get 1 = false ∧
    working.flags.getLsbD 4 = false ∧ working.settings.noticeMask.getLsbD 4 = true ∧
    ∀ x ∈ working.notices, x.kind ≠ .streamGap := by
  refine ⟨rfl, rfl, rfl, rfl, fun l => ?_, by decide⟩
  match l with
  | 0 | 1 | 2 | 3 => exact ⟨.nil, fun _ h => nomatch h⟩

theorem witness_AdmittedFramesStandInTheHistory :
    passing.unit.phase = .running ∧ passing.intake.transport = .play ∧ passing.intake.running = true ∧
    passing.intake.expected = some (16 : BitVec 32).toNat ∧ HistoryCanonical passing ∧
    passing.intake.applied.laneEnable.get 3 = true := by
  refine ⟨rfl, rfl, rfl, rfl, fun l => ?_, by decide⟩
  match l with
  | 0 | 1 | 2 | 3 => exact ⟨.nil, fun _ h => nomatch h⟩

theorem witness_FullDirectiveQueueDropsTheDirective :
    directiveHeader (.status here) = some here ∧ (Instr.status here).wellFormed = true ∧
    (waiting 4 1).unit.phase = .running ∧ addressIn here.addr = (waiting 4 1).unit.unitAddress ∧
    (∀ body, Instr.status here ≠ .directiveForOtherUnit here body) ∧ 4 ≤ (waiting 4 1).directives.length :=
  ⟨rfl, rfl, rfl, by decide, fun _ h => (by cases h), by decide⟩

/-- The directives' shared hypothesis: this unit and broadcast, with 3 answers waiting at most. -/
theorem witness_Executes : Executes here base ∧ Executes ⟨63, 0⟩ (waiting 3 1) := by
  unfold Executes
  decide

theorem witness_AnswersHaveTheLengthOfTheirKind :
    directiveHeader (.resetUnit here) = some here ∧ (Instr.resetUnit here).wellFormed = true ∧ Executes here base ∧
    base.link.link.d = .up ∧ (∀ body, Instr.resetUnit here ≠ .directiveForOtherUnit here body) :=
  ⟨rfl, rfl, witness_Executes.1, rfl, fun _ h => (by cases h)⟩

theorem witness_IdentifyAndStatusReportTheState : Executes here base := witness_Executes.1

theorem witness_SetAddressAndUnknownKinds :
    Executes here base ∧ (62 : Byte).toNat ≤ 62 ∧ 63 ≤ (63 : Byte).toNat ∧ (Instr.unknownDirective here []).wellFormed = true :=
  ⟨witness_Executes.1, by decide, by decide, by decide⟩

theorem witness_ReadSettingReportsTableAndAppliedValues :
    Executes here base ∧ (settingValues base.settings)[(41 : Byte).toNat]? = some 2048 ∧
    (appliedValues base.intake.applied base.settings)[(41 : Byte).toNat]? = some 2048 ∧ 42 ≤ (42 : Byte).toNat :=
  ⟨witness_Executes.1, by decide, by decide, by decide⟩

/-- An id that names none, a refused value, and accepted ones of each kind at the edges of their ranges. -/
theorem witness_WriteSettingStoresClampsOrRefuses :
    Executes here base ∧ 42 ≤ (42 : Byte).toNat ∧ settingRules[(9 : Byte).toNat]? = some .speedRange ∧
    (settingValues base.settings)[(9 : Byte).toNat]? = some 4 ∧ (3 : BitVec 32).toInt ≠ 2 ∧ (12 : BitVec 32).toInt = 12 ∧
    settingRules[(33 : Byte).toNat]? = some (.codes 4096) ∧ (settingValues base.settings)[(33 : Byte).toNat]? = some 4095 ∧
    4096 ≤ (4096 : BitVec 32).toInt ∧ (4095 : BitVec 32).toInt < 4096 ∧
    settingRules[(10 : Byte).toNat]? = some (.numeric 1 4096) ∧ settingRules[(6 : Byte).toNat]? = some .window :=
  ⟨witness_Executes.1, by decide⟩

/-- A refused form; a map of 512; a late, a conflicting and a crowded insert; and one that passes all five checks. -/
theorem witness_MapInsertChecksInOrder :
    Executes here base ∧ ¬ FormOk 7 1 0 1 0 ∧ FormOk 4 1 150 160 0 ∧ mapClassOfCode (4 : Byte).toNat = some .gain ∧
    512 ≤ (withEntries (List.replicate 512 (entry 0 .note 0 1)) base).map.entries.length ∧
    Late passing 150 160 ∧ ¬ Late base 150 160 ∧
    Conflict (withEntries [entry 0 .gain 100 151] base) ⟨0, .gain, 1, 150, 160, 0⟩ ∧
    ¬ Conflict (withEntries [entry 0 .gain 100 150] base) ⟨0, .gain, 1, 150, 160, 0⟩ ∧ MapShaped base ∧
    ¬ Crowded base ⟨0, .gain, 1, 150, 160, 0⟩ := by
  refine ⟨witness_Executes.1, fun h => h.2.2.2, ⟨by decide, by decide, by decide, by show (0 : BitVec 32).toNat ≤ 65535; decide⟩, by decide, ?_, ?_, ?_, ?_, ?_, ?_, ?_⟩
  · exact (List.length_replicate (n := 512)).ge
  · refine ⟨rfl, by decide, .inr ⟨fun d => ?_, by decide⟩⟩
    cases d <;> rfl
  · rintro ⟨h, -⟩
    cases h
  · unfold Conflict; decide
  · unfold Conflict; decide
  · refine ⟨by decide, .nil, .nil, by decide, .nil, fun l x => ?_⟩
    exact Nat.zero_le _
  · rintro ⟨l, x, -, h⟩
    exact absurd h (by show ¬ 4 ≤ 0; decide)

/-- A lane covered four times is crowded, in a map that has its shape. -/
theorem witness_MapInsertChecksInOrder_crowded :
    let s := withEntries [entry 0 .threshold 100 200, entry 1 .repair 100 200, entry 2 .eqset 100 200, entry 3 .note 100 200] base
    Crowded s ⟨0, .gain, 1, 199, 300, 0⟩ ∧ ¬ Conflict s ⟨0, .gain, 1, 199, 300, 0⟩ ∧ MapShaped s := by
  refine ⟨⟨0, 199, by decide, by decide⟩, by unfold Conflict; decide, by decide, by decide, by decide, by decide, ?_, ?_⟩
  · unfold MapEntry.apart
    decide
  · intro l x
    exact (List.length_filter_le _ _).trans (by decide)

theorem witness_MapDeleteChecksInOrder :
    let s := withEntries [entry 0 .gain 100 200, entry 511 .note 300 400] base
    Executes here base ∧ 511 < (512 : BitVec 16).toNat ∧ (511 : BitVec 16).toNat ≤ 511 ∧
    (∀ e ∈ base.map.entries, e.id ≠ (511 : BitVec 16).toNat) ∧
    s.map.entries = [entry 0 .gain 100 200] ++ entry 511 .note 300 400 :: [] ∧
    (entry 511 .note 300 400).id = (511 : BitVec 16).toNat ∧
    (∀ f ∈ [entry 0 .gain 100 200] ++ [], f.id ≠ (511 : BitVec 16).toNat) ∧ ¬ Late s 300 400 ∧ Late passing 300 400 := by
  refine ⟨witness_Executes.1, by decide, by decide, by decide, rfl, by decide, by decide, ?_, ?_⟩
  · rintro ⟨h, -⟩
    cases h
  · refine ⟨rfl, by decide, .inr ⟨fun d => ?_, by decide⟩⟩
    cases d <;> rfl

theorem witness_MapReadReportsEntryAndActiveLanes :
    Executes here base ∧ 511 < (512 : BitVec 16).toNat ∧ base.map.entries.length ≤ (0 : BitVec 16).toNat ∧
    (withEntries [entry 7 .gain 100 200] base).map.entries[(0 : BitVec 16).toNat]? = some (entry 7 .gain 100 200) :=
  ⟨witness_Executes.1, by decide, by decide, rfl⟩

theorem witness_MapClearKeepsTheLockedSpan : Executes here passing ∧ Late passing 100 200 := by
  refine ⟨⟨rfl, .inl rfl, by decide⟩, rfl, by decide, .inr ⟨fun d => ?_, by decide⟩⟩
  cases d <;> rfl

theorem witness_LoadBeginStartsALoad :
    Executes here base ∧ 4 < (5 : Byte).toNat ∧ (4 : Byte).toNat ≤ 4 ∧ (loadingFor 0).stager.loading = true ∧
    base.stager.loading = false ∧ base.stager.install = .none :=
  ⟨witness_Executes.1, by decide⟩

/-- No load; a wrong index; a word out of range; and an accepted chunk, the last of a kernel. -/
theorem witness_LoadChunkTakesTheExpectedChunk :
    let s : State := { loadingFor 0 with stager := { (loadingFor 0).stager with next := 127, staging := List.replicate 4096 0 } }
    Executes here s ∧ base.stager.loading = false ∧ s.stager.loading = true ∧
    (127 : Byte).toNat = s.stager.next ∧ s.stager.next < s.stager.expected ∧ (126 : Byte).toNat ≠ s.stager.next ∧
    s.stager.table = some .kernel ∧ ((Vector.replicate 32 (32767 : BitVec 32)).get 5).toInt ≤ 32767 ∧
    ¬ ((Vector.replicate 32 (32768 : BitVec 32)).get 5).toInt ≤ 32767 ∧ s.stager.staging.length = 4096 ∧
    s.stager.expected ≤ 128 := by
  refine ⟨⟨rfl, .inl rfl, by decide⟩, rfl, rfl, rfl, by decide, by decide, rfl, by decide, by decide, ?_, by decide⟩
  exact List.length_replicate

theorem witness_LoadsEndMarkedOrAbandoned :
    let s : State := { loadingFor 0 with stager := { (loadingFor 0).stager with next := 128, sum := 7 } }
    Executes here s ∧ base.stager.loading = false ∧ s.stager.loading = true ∧
    (loadingFor 0).stager.next < (loadingFor 0).stager.expected ∧ (8 : BitVec 32) ≠ s.stager.sum ∧
    s.stager.expected ≤ s.stager.next ∧ (7 : BitVec 32) = s.stager.sum ∧ s.stager.table = some .kernel := by
  refine ⟨⟨rfl, .inl rfl, by decide⟩, by decide⟩

/-- A running pass with an EQ set waiting to be installed: the set is replaced, the other three and the kernel stay. -/
theorem witness_LoadsEndMarkedOrAbandoned_installation :
    let s : State := { passing with stager := { passing.stager with
      install := .load (.eq 2), staging := 9 :: passing.stager.staging.drop 1 } }
    s.unit.phase = .running ∧ s.intake.transport = .play ∧ s.intake.running = true ∧
    s.intake.expected = some (16 : BitVec 32).toNat ∧ (16 : BitVec 32).toNat ≤ 4294967280 ∧
    ((tablesInstalled s).2.get 2).head? = some 9 ∧ (tablesInstalled s).2.get 1 = s.eqSets.get 1 := by
  refine ⟨rfl, rfl, rfl, rfl, by decide, rfl, rfl⟩

theorem witness_AckEventsClearsTheNamedFlags : Executes here base := witness_Executes.1

theorem witness_SnapshotCountersReportsAndClears : Executes here base ∧ 1 < (2 : Byte).toNat :=
  ⟨witness_Executes.1, by decide⟩

theorem witness_ProfileSaveAndEraseWriteTheSlot :
    Executes here base ∧ 3 < (4 : Byte).toNat ∧ 1 < (2 : Byte).toNat ∧ (1 : Byte).toNat ≤ 1 ∧
    (3 : Fin 4).val = (3 : Byte).toNat ∧ (3 : Fin 4) ≠ 0 ∧ base.store.state = .idle ∧ base.stager.install ≠ .recall 3 ∧
    (storing (.erasing 1) 0).store.state ≠ .idle ∧
    (storing (.saving 1 factoryProfile true) 0).store.state = .saving 1 factoryProfile true ∧
    (storing (.erasing 1) 0).store.state = .erasing 1 :=
  ⟨witness_Executes.1, by decide, by decide, by decide, rfl, by decide, rfl, by decide, by simp [storing], rfl, rfl⟩

theorem witness_ProfileRecallWritesTheSettingsTable :
    Executes here base ∧ 3 < (4 : Byte).toNat ∧ (0 : Fin 4).val = (0 : Byte).toNat ∧ (3 : Fin 4).val = (3 : Byte).toNat ∧
    (loadingFor 0).stager.loading = true ∧
    ¬ (base.store.state ≠ .idle ∨ base.stager.loading = true ∨ base.stager.install ≠ .none) ∧
    (∀ p, ¬ Slot.Valid (base.store.slots.get 3) p) ∧ Slot.Valid (base.store.slots.get 0) factoryProfile := by
  refine ⟨witness_Executes.1, by decide, rfl, rfl, rfl, by decide, fun _ h => ?_, valid_manufactured⟩
  cases h.1

theorem witness_ResetEngineResetsTheChain :
    Executes here passing ∧ passing.map.intakeWalker.running = passing.intake.running ∧
    (∀ d, (passing.map.sideWalker.get d).running = sideActive passing d) ∧
    Executes here base ∧ base.map.intakeWalker.running = base.intake.running ∧
    (∀ d, (base.trackers.get d).state = .idle) := by
  refine ⟨⟨rfl, .inl rfl, by decide⟩, rfl, fun d => ?_, witness_Executes.1, rfl, fun d => ?_⟩ <;> cases d <;> rfl

/-- A run is open on side A, at work, with a parcel in its clean queue; side B is in IDLE. -/
theorem witness_ResetEngineResetsTheChain_records :
    let s : State := { working with cleanQueues := ⟨[clean .A], []⟩ }
    Executes here s ∧ s.map.intakeWalker.running = s.intake.running ∧
    (∀ d, (s.map.sideWalker.get d).running = sideActive s d) ∧ s.intake.running = true ∧ s.log.length ≤ 64 ∧
    (s.trackers.get .A).state ≠ .idle ∧ (s.trackers.get .B).state = .idle ∧
    cutRecords s = [⟨0, 12, 15, 3, false, true, 0⟩] ∧
    after (.resetEngine here) s (fun t => t.counters.cleanDiscarded.a) = some 1 := by
  refine ⟨⟨rfl, .inl rfl, by decide⟩, rfl, fun d => ?_, rfl, by decide, by decide, by decide, by decide,
    by decide +kernel⟩
  cases d <;> rfl

theorem witness_ResetUnitWaitsForItsAnswer :
    Executes here base ∧ base.link.link.d = .up ∧
    (Executes here { base with link := State.reset.link } ∧ State.reset.link.link.d = .down ∧ base.unit.resetLine = false) ∧
    (sendingFrom .directive (waiting 1 0x51)).directives = ⟨0x51, 9, .ok, []⟩ :: [] :=
  ⟨witness_Executes.1, rfl, ⟨⟨rfl, .inl rfl, by decide⟩, rfl, rfl⟩, rfl⟩

/-- The trim loop on side A, at the first and the last boundary of an interval, inside the deadband and on both sides. -/
theorem witness_TrimFollowsTheMeanStep :
    let locked : State :=
      { base with
        trackers := { base.trackers with a := { base.trackers.a with state := .locked } }
        settings := { base.settings with trimEnable := true, trimSide := .A, trimDeadband := 0 } }
    State.reset.unit.phase = .startUp ∧ (inPhase .off).unit.phase = .off ∧ base.settings.trimEnable = false ∧
    locked.settings.trimEnable = true ∧ locked.settings.trimSide = .A ∧ (locked.trackers.get .A).state ≠ .idle ∧
    locked.lines.trimCount < 255 ∧ locked.lines.duty ≤ 255 ∧ locked.lines.allLocked = true ∧
    256 * (16777216 + (locked.settings.trimDeadband : Int) + 1) ≤ 255 * 16777217 + 256 + 16777216 ∧
    255 * 16777216 - 1 + 16777216 < 256 * (16777216 - (locked.settings.trimDeadband : Int)) := by
  decide

theorem witness_StampRingsKeepTheNewestEntries : ([⟨1, true⟩] : List StampEntry).length ≤ 0 + 1 := by decide

theorem witness_MeasurementAndSkewRoundAsStated : 0 < 69307 ∧ 0 < 100000 := by decide

theorem witness_TrackersMoveByTheirStateRules :
    let t := Tracker.reset
    let u := fun x : TrackerState => ({ t with state := x } : Tracker)
    (u .acquire).force = .none ∧ (u .acquire).state = .acquire ∧ (u .free).state = .free ∧
    8 ≤ ({ u .acquire with validRun := 7 } : Tracker).validRun + 1 ∧ (u .acquire).validRun + 1 < 8 ∧
    (u .locked).state = .locked ∧ (u .hold).state = .hold ∧ (u .hold).holdCount + 1 < 256 ∧
    256 ≤ ({ u .hold with holdCount := 255 } : Tracker).holdCount + 1 ∧
    ({ u .hold with force := .hold 3 } : Tracker).force = .hold 3 ∧
    ({ u .free with force := .nominal 3 } : Tracker).force = .nominal 3 := by decide

/-- A side in IDLE and a side at work; K = 16 at the factory window, and a lane qualifies with 17 entries, the oldest's
clean bit left aside. -/
theorem witness_TrackersMoveByTheirStateRules_update :
    (working.trackers.get .B).state = .idle ∧ (working.trackers.get .A).state ≠ .idle ∧
    working.intake.applied.window / 16 = 16 ∧
    qualifiedCount 16 true (⟨16777215, false⟩ :: List.replicate 16 ⟨100, true⟩) = some 101 ∧
    qualifiedCount 16 true (List.replicate 16 ⟨100, true⟩) = none ∧
    qualifiedCount 16 true (List.replicate 16 ⟨100, true⟩ ++ [⟨100, false⟩]) = none := by decide

/-- The condition of R62 at its edge: it holds with the intake position at 130 and fails at 129. -/
theorem witness_ProductionGoesOnWhileItsConditionHolds :
    let s : State := { base with trackers := { base.trackers with a := { base.trackers.a with state := .locked } } }
    let at' := fun p : Nat => ({ s with intake := { s.intake with position := p } } : State)
    (s.trackers.get .A).state ≠ .idle ∧ 0 < (s.trackers.get .A).appliedStep ∧ (s.trackers.get .B).state = .idle ∧
    (s.resamplers.get .A).frameNumber < 4294967295 ∧
    4294967295 ≤ ({ s.resamplers.get .A with frameNumber := 4294967295 } : Resampler).frameNumber ∧
    MayProduce .A (at' 130) ∧ ¬ MayProduce .A (at' 129) ∧ sideOf 1 = .A := by
  unfold MayProduce
  decide

theorem witness_DetectorsOpenAndCloseRuns :
    let e : HistEntry := ⟨0, 0, 10, true, false, false⟩
    let d := Detector.reset
    d.state = .clear ∧ 1 ≤ 2 ∧ 2 < 3 ∧ 2 ≤ [e, e, e].length ∧ [e, e, e][1]? = some e ∧ [e, e, e][max 3 1 - 1]? = some e ∧
    [e][max 0 1 - 1]? = some e ∧ ({ d with state := .dropout } : Detector).state = .dropout ∧
    ({ d with state := .recovering } : Detector).state = .recovering ∧ ({ d with state := .suspect } : Detector).state = .suspect := by
  decide

/-- Frames presented: a run in RECOVERING that closes with N_out 1, and one that goes on. -/
theorem witness_DetectorsOpenAndCloseRuns_presented :
    HistoryCanonical working ∧
    (examineFrame 8 1 false 20 ⟨0, 0, 200, true, false, false⟩ (working.detectors.get 0)).closed = some 19 ∧
    (examineFrame 8 2 false 20 ⟨0, 0, 200, true, false, false⟩ (working.detectors.get 0)).closed = none := by
  refine ⟨fun l => ?_, by decide, by decide⟩
  match l with
  | 0 | 1 | 2 | 3 => exact ⟨.nil, fun _ h => nomatch h⟩

theorem witness_RepairFollowsTheModeInForce :
    let x : LaneInput := ⟨5, false, true, false⟩
    let o : LaneInput := ⟨6, false, false, true⟩
    x.damaged = true ∧ o.damaged = false ∧ (some o : Option LaneInput) = some o ∧ (⟨none, 32767, false⟩ : Repair).inRun = false ∧
    (⟨none, 32767, true⟩ : Repair).inRun = true := by decide

theorem witness_EqualizerSumsItsSymmetricTaps :
    flatEq.length = 32 ∧ (List.replicate 63 (0 : Int)).length = 63 := by decide

/-- The frame of `working` leaves its equalizer after 31 intakes more; a lane in use and one not. -/
theorem witness_EqualizerSumsItsSymmetricTaps_delay :
    let x : LaneIntake := some (7, some ⟨FlagSet.none, false, 0, 4096⟩)
    let more : List (LaneIntake × LaneIntake × Option FrameRecord) := List.replicate 31 (x, none, some ⟨1, 1⟩)
    let take := fun (u : State) (x : LaneIntake × LaneIntake × Option FrameRecord) => eqIntake .A x.1 x.2.1 x.2.2 u
    (working.eqSides.get .A).fill < 31 ∧ more.length = 31 ∧
    (((more.take 30).foldl take (eqIntake .A x none (some ⟨0, 0⟩) working)).partials.get .A).length ≤ 15 ∧
    working.intake.applied.laneEnable.get (firstLane .A) = true ∧ (∀ y ∈ more.map fun z => z.1, y ≠ none) ∧
    working.intake.applied.laneEnable.get (secondLane .A) = false := by
  decide +kernel

/-- The sixteenth frame: with 15 frames in the partial parcel before it, the queue not full, full, and Port D DOWN. -/
theorem witness_EqualizerSumsItsSymmetricTaps_completion :
    let x : LaneIntake := some (7, some ⟨FlagSet.none, true, 0, 4096⟩)
    let more : List (LaneIntake × LaneIntake × Option FrameRecord) := List.replicate 31 (x, none, none)
    let take := fun (u : State) (x : LaneIntake × LaneIntake × Option FrameRecord) => eqIntake .A x.1 x.2.1 x.2.2 u
    let s : State := { working with partials := ⟨List.replicate 15 ⟨⟨0, FlagSet.none⟩, ⟨0, FlagSet.none⟩, ⟨0, 0⟩⟩, []⟩
                                    eqSides := ⟨EqSide.reset, EqSide.reset⟩ }
    let before := fun s : State => (more.take 30).foldl take (eqIntake .A x none (some ⟨0, 0⟩) s)
    let full : State := { s with cleanQueues := ⟨List.replicate 4 (clean .A), []⟩ }
    ((before s).partials.get .A).length = 15 ∧ s.link.link.d = .up ∧ ((before s).cleanQueues.get .A).length < 4 ∧
    4 ≤ ((before full).cleanQueues.get .A).length ∧ ({ s with link := State.reset.link } : State).link.link.d = .down := by
  decide +kernel

theorem witness_GainScalesRoundsAndSaturates :
    (⟨FlagSet.none, false, 0, 4096⟩ : LaneRecord).gain = 4096 ∧ (⟨FlagSet.none, false, 0, 0⟩ : LaneRecord).gain = 0 :=
  ⟨rfl, rfl⟩

theorem witness_EventsRecordsAndReportsAreTaken :
    (base.flags.getLsbD (EventKind.code .logHigh) = false ∧ base.settings.noticeMask.getLsbD (EventKind.code .logHigh) = true ∧
      ∀ n ∈ base.notices, n.kind ≠ .logHigh) ∧
    base.link.link.d = .up ∧ (base.cleanQueues.get .A).length < 4 ∧ State.reset.link.link.d = .down ∧
    base.log.length < 64 ∧ base.log.length ≠ 47 ∧
    ({ base with log := List.replicate 47 damage } : State).log.length = 47 ∧
    64 ≤ ({ base with log := List.replicate 64 damage } : State).log.length := by decide

/-- A THRESHOLD entry becomes active as the cursor reaches its start. -/
theorem witness_IntakeWalkerHoldsTheCoveringEntries :
    let es := [entry 0 .threshold 100 200]
    let w : Walker := { Walker.reset with cursor := 99, running := true }
    (es.map (·.id)).Nodup ∧ (∀ e ∈ es, e.start < e.stop) ∧ w.running = true ∧
    (∀ (l : Lane) (i : Nat), i ∈ w.active.get l ↔
      ∃ e ∈ es, e.id = i ∧ e.cls = .threshold ∧ e.covers l w.cursor = true) ∧
    (∀ e ∈ es, e.cls = .threshold → e.covers 0 w.cursor = false) ∧ (entry 0 .threshold 100 200).covers 0 100 = true := by
  refine ⟨by decide, by decide, rfl, fun l i => ?_, by decide, by decide⟩
  have h : ∀ l : Lane, (entry 0 .threshold 100 200).covers l 99 = false := by decide
  match l with
  | 0 | 1 | 2 | 3 =>
    constructor
    · exact fun hm => nomatch hm
    · rintro ⟨e, he, -, -, hc⟩
      rw [List.mem_singleton.mp he] at hc
      exact absurd hc (by rw [h]; decide)

/-- Side A's walker stands one below the start of a NOTE entry, with a TIMEBASE entry ahead, and side B's is stopped. -/
theorem witness_IntakeWalkerHoldsTheCoveringEntries_sides :
    let s := withEntries [entry 0 .note 16 20, entry 1 .timebase 18 30]
      { working with
        map :=
          { working.map with
            sideWalker := { working.map.sideWalker with a := { working.map.sideWalker.a with cursor := 15 } } } }
    (s.map.entries.map (·.id)).Nodup ∧ (∀ e ∈ s.map.entries, e.start < e.stop) ∧ s.cues.length ≤ 16 ∧
    (s.map.sideWalker.get .B).running = false ∧ (s.map.sideWalker.get .A).running = true ∧
    SideWalkerExact .A s.map.entries (s.map.sideWalker.get .A) ∧ (s.map.sideWalker.get .A).cursor < 16 := by
  refine ⟨by decide, by decide, by decide, by decide, by decide, fun l i => ?_, by decide⟩
  have h : ∀ e ∈ [entry 0 .note 16 20, entry 1 .timebase 18 30], ∀ l : Lane, e.covers l 15 = false := by decide
  match l with
  | 0 | 1 | 2 | 3 =>
    constructor
    · exact fun hm => nomatch hm
    · rintro ⟨-, e, he, -, -, hc⟩
      exact absurd hc (by show ¬ e.covers _ 15 = true; rw [h e he]; decide)

/-- Side A's walker at 0 with one entry of each class that sets a value covering it, and side B's with none. -/
theorem witness_IntakeWalkerHoldsTheCoveringEntries_inForce :
    let e := fun (i : Nat) (c : MapClass) => (⟨i, c, 3, 0, 9, 1⟩ : MapEntry)
    let es := [e 0 .repair, e 1 .skew, e 2 .gain, e 3 .eqset]
    let s : State := { withEntries es base with
      map := { (withEntries es base).map with sideWalker := ⟨⟨0, true, none, ⟨[0, 1, 2, 3], [0, 1, 2, 3], [], []⟩⟩, Walker.reset⟩ } }
    (es.map (·.id)).Nodup ∧ (∀ f ∈ es, f.start < f.stop) ∧ sideOf 0 = .A ∧ sideOf 2 = .B ∧ 0 = firstLane .A ∧ 2 = firstLane .B ∧
    SideWalkerExact .A es (s.map.sideWalker.get .A) ∧ SideWalkerExact .B es (s.map.sideWalker.get .B) ∧
    (∀ f ∈ es, f.covers 0 0 = true ∧ ∀ g ∈ es, g.cls = f.cls → g = f) ∧ (∀ f ∈ es, f.covers 2 0 = false) ∧
    repairInForce s 0 = .mute ∧ gainInForce s 0 = 1 ∧ eqSetInForce s 0 = 1 ∧ skewEntry s .A = some 1 := by
  refine ⟨by decide, by decide, rfl, rfl, rfl, rfl, ?_, ?_, by decide, by decide, rfl, rfl, rfl, rfl⟩ <;>
    intro l i <;> match l with
    | 0 | 1 | 2 | 3 => simp [Quad.get, PerSide.get, sideOf, Walker.reset, Quad.fill, MapEntry.covers, MapEntry.hasLane, @eq_comm _ i]

/-- The map of one entry keeps its shape and the part takes a step. -/
theorem witness_StepsKeepTheMapShaped :
    let s := withEntries [entry 0 .gain 100 200] base
    MapShaped s ∧ ∃ t, step s = .next t := by
  refine ⟨⟨by decide, by decide, by decide, by decide, ?_, fun l x => ?_⟩, _, rfl⟩
  · unfold MapEntry.apart
    decide
  · exact (List.length_filter_le _ _).trans (by decide)

theorem witness_StepsKeepTheQueuesBounded : QueuesBounded sources ∧ ∃ t, step sources = .next t := by
  refine ⟨⟨by decide, by decide, fun d => ?_, fun d => ?_, by decide, by decide, by decide, by decide⟩, _, rfl⟩ <;>
    cases d <;> decide

theorem witness_StepsKeepPassesCoherent : PassCoherent passing ∧ ∃ t, step passing = .next t := by
  refine ⟨⟨fun _ => rfl, fun h => (by cases h), rfl, fun d => ?_⟩, _, rfl⟩
  cases d <;> rfl

theorem witness_StepsKeepTrackersInRange :
    StepsInRange passing ∧ SkewBounded passing ∧ ∃ t, step passing = .next t := by
  refine ⟨fun d => ?_, ⟨by decide, fun d => ?_⟩, _, rfl⟩ <;> cases d <;> decide

theorem witness_StepsKeepStoredDataWhole : HistoryCanonical passing ∧ DelaysWhole passing ∧ ∃ t, step passing = .next t := by
  refine ⟨witness_AdmittedFramesStandInTheHistory.2.2.2.2.1, ⟨fun l => ?_, fun d => ?_⟩, _, rfl⟩
  · match l with
    | 0 | 1 | 2 | 3 => exact ⟨List.length_replicate, List.length_replicate⟩
  · cases d <;> decide

theorem witness_StepsKeepStoredDataWhole_tables : TablesWhole base := by
  refine ⟨by decide +kernel, by decide +kernel, by decide +kernel, by decide, ?_⟩
  intro p hp
  have : p = factoryProfile := List.mem_singleton.mp hp
  subst this
  exact ⟨by decide +kernel, by decide +kernel⟩

theorem witness_StepsKeepSettingsAndValuesInRange : ValuesInRange base ∧ ∃ t, step base = .next t :=
  ⟨by unfold ValuesInRange; decide, _, rfl⟩

theorem witness_StepsKeepSettingsAndValuesInRange_settings : SettingsInRange base := by
  have h : factorySettings.allowed := by
    have v : settingValues factorySettings =
        [1, 1, 1, 1, 0, 1, 256, 100000, 100000, 4, 512, 8, 256, 2, 2, 0, 0, 0, 0, 64, 64, 8, 32, 0, 0, 0, 0, 0, 0, 4096, 4096,
          16, 200, 4095, 2, 3, 6, 9, 0, 0, 0, 2048] := by decide
    unfold Settings.allowed settingRules
    rw [v]
    simp [valueAllowed]
  refine ⟨h, fun p hp => ?_⟩
  have : p = factoryProfile := List.mem_singleton.mp hp
  subst this
  exact h

end Sys2Proof.Tests
end

section
/-! Settles the statement on the transport state (R17): what a DECK parcel does, and what keeps or resets the state. -/

namespace Sys2Proof.Machine

/-! ### The counters a flushed end leaves as they were -/

/-- The counters, without those of the dropouts closed and unlogged, the samples clipped and the CLEAN parcels discarded:
the four that a flushed end counts (R90, R134, R140, R143). -/
def State.countsBesideEnd (s : State) : Counters :=
  { s.counters with
    dropoutsClosed := Quad.fill 0, unloggedDropouts := 0, clippedSamples := Quad.fill 0, cleanDiscarded := PerSide.both 0 }

theorem appendDamage_countsBesideEnd (r : DamageRecord) (s : State) :
    (appendDamage r s).countsBesideEnd = s.countsBesideEnd := by
  unfold appendDamage
  dsimp only
  split
  · rfl
  · split <;> rfl

theorem endDetector_countsBesideEnd (s : State) (l : Lane) : (endDetector s l).countsBesideEnd = s.countsBesideEnd := by
  have hclose : ∀ d stop cut t, (closeRun l d stop cut t).countsBesideEnd = t.countsBesideEnd := fun _ _ _ _ =>
    appendDamage_countsBesideEnd _ _
  unfold endDetector
  dsimp only
  split
  · rfl
  · rfl
  · exact hclose _ _ _ _
  · exact hclose _ _ _ _

theorem completePartial_countsBesideEnd (d : Side) (s : State) :
    (completePartial d s).countsBesideEnd = s.countsBesideEnd := by
  unfold completePartial
  split
  · rfl
  · unfold queueClean
    split <;> rfl

theorem putOut_countsBesideEnd (d : Side) (r : FrameRecord) (s : State) :
    (putOut d r s).countsBesideEnd = s.countsBesideEnd := by
  have hclip : ∀ l f t, (countClip l f t).countsBesideEnd = t.countsBesideEnd := by
    intro l f t
    unfold countClip
    split <;> rfl
  have hjoin : ∀ f t, (assemble d f t).countsBesideEnd = t.countsBesideEnd := by
    intro f t
    unfold assemble
    dsimp only
    split
    · exact completePartial_countsBesideEnd d _
    · rfl
  unfold putOut
  rw [hjoin, hclip, hclip]

theorem eqIntake_countsBesideEnd (d : Side) (a b : LaneIntake) (r : Option FrameRecord) (s : State) :
    (eqIntake d a b r s).countsBesideEnd = s.countsBesideEnd := by
  have hlane : ∀ l x t, (takeLane l x t).countsBesideEnd = t.countsBesideEnd := by
    intro l x t
    cases x <;> rfl
  have hlanes := (hlane (secondLane d) b (takeLane (firstLane d) a s)).trans (hlane (firstLane d) a s)
  unfold eqIntake
  dsimp only
  split
  · exact hlanes
  · split
    · exact (putOut_countsBesideEnd d _ _).trans hlanes
    · exact hlanes

theorem flushIntakes_countsBesideEnd (d : Side) (n : Nat) (s : State) :
    (flushIntakes d n s).countsBesideEnd = s.countsBesideEnd := by
  induction n generalizing s with
  | zero => rfl
  | succ n ih => rw [flushIntakes, ih, eqIntake_countsBesideEnd]

theorem flushSide_countsBesideEnd (s : State) (d : Side) : (flushSide s d).countsBesideEnd = s.countsBesideEnd := by
  unfold flushSide
  split
  · rw [completePartial_countsBesideEnd]
    exact flushIntakes_countsBesideEnd d 31 (setFlushing d true s)
  · rfl

theorem closePass_countsBesideEnd (s : State) : (closePass s).countsBesideEnd = s.countsBesideEnd :=
  installPending_keeps State.countsBesideEnd (fun _ _ _ _ => rfl) _

theorem flushedEnd_countsBesideEnd (s : State) : (flushedEnd s).countsBesideEnd = s.countsBesideEnd := by
  unfold flushedEnd endDetectors
  rw [closePass_countsBesideEnd, foldl_keeps State.countsBesideEnd _ flushSide_countsBesideEnd,
    foldl_keeps State.countsBesideEnd _ endDetector_countsBesideEnd]

theorem endIfRunning_countsBesideEnd (s : State) : (endIfRunning s).countsBesideEnd = s.countsBesideEnd := by
  unfold endIfRunning
  split
  · exact flushedEnd_countsBesideEnd s
  · rfl

/-! ### What taking a transport state does (R17, R18) -/

/-- No pass end changes the transport state. -/
theorem endKeeps_transport : EndKeeps (fun s => s.intake.transport) where
  lanes _ _ := rfl
  sides _ _ := rfl
  partials _ _ := rfl
  queues _ _ := rfl
  counters _ _ := rfl
  raised _ _ := rfl
  detectors _ _ := rfl
  appended r s := congrArg (·.transport) (appendDamage_intake r s)
  trackers _ _ := rfl
  stopped _ := rfl
  closed _ := rfl
  tables _ _ _ _ := rfl

theorem takeTransport_transport (code : Nat) (s : State) :
    (takeTransport code s).intake.transport = (transportOfCode code).getD s.intake.transport := by
  unfold takeTransport
  cases transportOfCode code <;> rfl

/-- A code that names no state, or the state held, changes nothing. -/
theorem takeTransport_of_same (code : Nat) (s : State)
    (h : (transportOfCode code).getD s.intake.transport = s.intake.transport) : takeTransport code s = s := by
  unfold takeTransport
  cases hc : transportOfCode code with
  | none => rfl
  | some x =>
    obtain rfl : x = s.intake.transport := by simpa [hc] using h
    simp

theorem takeTransport_countsBesideEnd (code : Nat) (s : State) :
    (takeTransport code s).countsBesideEnd = s.countsBesideEnd := by
  unfold takeTransport
  split
  · rfl
  · dsimp only
    split
    · exact endIfRunning_countsBesideEnd s
    · rfl

theorem takeTransport_link (code : Nat) (s : State) : (takeTransport code s).link = s.link :=
  congrArg (fun x => x.2.1) (takeTransport_beside code s)

theorem takeTransport_receivedU (code : Nat) (s : State) :
    (takeTransport code s).counters.receivedU = s.counters.receivedU :=
  congrArg (·.receivedU) (takeTransport_countsBesideEnd code s)

/-! ### DECK_PARCEL -/

/-- An offer to the downstream forward queue changes that queue or the count of parcels dropped, and nothing else (R15). -/
theorem offerDownstream_eq (p : Parcel) (s : State) :
    offerDownstream p s = { s with
      counters := { s.counters with
        forwardedDropped :=
          if s.link.downstream.length < 4 then s.counters.forwardedDropped else countUp s.counters.forwardedDropped 1 }
      link := { s.link with
        downstream := if s.link.downstream.length < 4 then s.link.downstream ++ [p] else s.link.downstream } } := by
  unfold offerDownstream
  split <;> rfl

theorem exec_deckParcel_of_running (h : Header) (code : Byte) (s : State) (hr : s.unit.phase = .running) :
    exec (.deckParcel h code) s = .next (settleLines
      (offerDownstream ⟨0x12, h.addr, h.tag, [code]⟩ (takeTransport code.toNat (countReceived .U s)))) := by
  show execDeckParcel h code s = _
  simp [execDeckParcel, receiving, hr, done, kindDeck]

/-! ### Links and resets -/

theorem transport_of_done {u t : State} {x : Transport} (e : done u = .next t) (h : u.intake.transport = x) :
    t.intake.transport = x := by
  cases e
  exact h

theorem portUp_transport (p : Port) (s : State) : (portUp p s).intake.transport = s.intake.transport := by
  unfold portUp
  dsimp only
  split <;> rfl

/-- The fall of Port U may end a pass, which keeps the transport state (R32). -/
theorem portDown_U_transport (s : State) : (portDown .U s).intake.transport = s.intake.transport := by
  unfold portDown
  dsimp only
  split
  · exact endIfRunning_keeps endKeeps_transport _
  · rfl

theorem unitReset_transport (cause : ResetCause) (s : State) : (unitReset cause s).intake.transport = .stop := by
  unfold unitReset
  split <;> rfl

/-- The transmitted answer to RESET UNIT makes the unit reset (R177). -/
theorem completeTransmission_of_resetAnswer {s : State} {x : Parcel} {a : Answer} {rest : List Answer}
    (hx : s.arbiter.sending = some ⟨.directive, x⟩) (hd : s.directives = a :: rest) (ha : a.kind = 0x51) :
    completeTransmission s =
      unitReset .directive (removeHead .directive { s with arbiter := arbiterAfter .directive s.arbiter }) := by
  have hs : sendingReset s .directive = true := by simp [sendingReset, hd, ha, kindResetUnit]
  simp [completeTransmission, hx, hs]

theorem engineReset_transport (s : State) : (engineReset s).intake.transport = s.intake.transport := by
  have ha : (abandonForReset (endForReset s)).intake = (endForReset s).intake := by
    unfold abandonForReset
    split <;> rfl
  calc (engineReset s).intake.transport
      = (abandonForReset (endForReset s)).intake.transport := rfl
    _ = (endForReset s).intake.transport := congrArg (·.transport) ha
    _ = s.intake.transport := endForReset_keeps endKeeps_transport s

theorem routed_intake (h : Header) (body : List Byte) (s : State) : (routed h body s).intake = s.intake := by
  unfold routed offerUpstream
  split
  · rfl
  · split <;> rfl

/-- A directive whose action keeps the transport state keeps it through its counting, its answer and its copy. -/
theorem takeDirective_transport {act : State → State × Reply}
    (ha : ∀ u, (act u).1.intake.transport = u.intake.transport) (h : Header) (body : List Byte) (s : State) :
    (takeDirective h body act s).intake.transport = s.intake.transport := by
  have hn : (routed h body s).intake.transport = s.intake.transport := congrArg (·.transport) (routed_intake h body s)
  have hc : ∀ c u, (countRefused c u).intake = u.intake := by
    intro c u
    unfold countRefused
    split <;> rfl
  obtain ⟨-, e⟩ | ⟨-, -, e⟩ | ⟨-, -, e⟩ := takeDirective_cases h body act s
  · rw [e]
  · rw [e]
    obtain ⟨-, e⟩ | ⟨-, e⟩ := runDirective_cases (directiveKind body) h.tag act (routed h body s)
    · rw [e]
      exact hn
    · rw [e]
      dsimp only
      rw [hc, ha, hn]
  · rw [e, hn]

/-! ### The statement -/

/-- The clause of DECK_PARCEL: the state after is the one its code names, the parcel is counted and offered, and a state
that stays as it was leaves everything else. -/
theorem exec_deckParcel_effect (h : Header) (code : Byte) (s : State) (hr : s.unit.phase = .running) :
    ∃ t, exec (.deckParcel h code) s = .next t ∧
      t.intake.transport = (transportOfCode code.toNat).getD s.intake.transport ∧
      t.counters.receivedU = countUp s.counters.receivedU 1 ∧
      t.link = { s.link with
        downstream :=
          if s.link.downstream.length < 4 then s.link.downstream ++ [⟨0x12, h.addr, h.tag, [code]⟩]
          else s.link.downstream } ∧
      (t.intake.transport = s.intake.transport →
        t = { s with
          counters := { s.counters with
            receivedU := t.counters.receivedU
            forwardedDropped :=
              if s.link.downstream.length < 4 then s.counters.forwardedDropped
              else countUp s.counters.forwardedDropped 1 }
          link := t.link
          lines := { s.lines with levels := t.lines.levels } }) := by
  have ht := takeTransport_transport code.toNat (countReceived .U s)
  have hl : (takeTransport code.toNat (countReceived .U s)).link = s.link := takeTransport_link _ _
  refine ⟨_, exec_deckParcel_of_running h code s hr, ?_⟩
  rw [offerDownstream_eq]
  refine ⟨ht, takeTransport_receivedU _ _, ?_, fun hkept => ?_⟩
  · show LinkBlock.mk .. = _
    rw [hl]
  · have hsame : takeTransport code.toNat (countReceived .U s) = countReceived .U s :=
      takeTransport_of_same _ _ (ht.symm.trans hkept)
    rw [hsame]
    rfl

/-- Settles O17: the clauses one by one, each from the lemma of the operation it speaks of. -/
theorem deckParcelsSetTheTransportState : Obligations.DeckParcelsSetTheTransportState := by
  unfold Obligations.DeckParcelsSetTheTransportState
  intro s
  refine ⟨fun h code hr => ?deck, fun t e => transport_of_done e (portDown_U_transport s),
    fun p t e => transport_of_done e (portUp_transport p s), fun straps t e => transport_of_done e (unitReset_transport _ _),
    fun t hoff e => ?line, fun x a rest t hx hd ha e => ?answer, fun cause => unitReset_transport cause s,
    fun h t e => transport_of_done e (takeDirective_transport engineReset_transport h _ s)⟩
  case deck =>
    obtain ⟨t, he, ht, hcount, hlink, hkept⟩ := exec_deckParcel_effect h code s hr
    refine ⟨t, he, ht.trans ?_, hcount, hlink, hkept⟩
    rcases code.toNat with _ | _ | _ | _ | n <;> rfl
  case line =>
    refine transport_of_done e ?_
    rw [if_neg hoff]
    exact unitReset_transport _ _
  case answer =>
    refine transport_of_done e ?_
    rw [completeTransmission_of_resetAnswer hx hd ha]
    exact unitReset_transport _ _

end Sys2Proof.Machine
end

section
/-! Settles the statement on the stamp rings (R35, R36): what a push keeps, and what empties, leaves and reports them. -/

namespace Sys2Proof.Machine

/-! ### A push (R36) -/

/-- A ring that holds the newest K+1 of the entries pushed so far does so after one push more. -/
theorem pushStamp_drop (k : Nat) (es : List StampEntry) (e : StampEntry) :
    pushStamp k (es.drop (es.length - (k + 1))) e = (es ++ [e]).drop ((es ++ [e]).length - (k + 1)) := by
  unfold pushStamp
  rw [← List.drop_append_of_le_length (Nat.sub_le _ _), List.drop_drop, List.length_drop, List.length_append,
    List.length_singleton]
  congr 1
  omega

theorem foldl_pushStamp (k : Nat) (es : List StampEntry) :
    es.foldl (pushStamp k) [] = es.drop (es.length - (k + 1)) := by
  induction es using List.reverseRecOn with
  | nil => exact List.drop_nil.symm
  | append_singleton es e ih => rw [List.foldl_append, ih, List.foldl_cons, List.foldl_nil, pushStamp_drop]

/-- A full ring loses its oldest entry; one that is not full loses none. -/
theorem pushStamp_of_length_le (k : Nat) (ring : List StampEntry) (e : StampEntry) (h : ring.length ≤ k + 1) :
    pushStamp k ring e = (if ring.length = k + 1 then ring.tail else ring) ++ [e] := by
  unfold pushStamp
  split
  case isTrue hfull =>
    have hdrop : ring.length + 1 - (k + 1) = 1 := by omega
    rw [hdrop, List.drop_append_of_le_length (by omega), List.drop_one]
  case isFalse hroom =>
    have hdrop : ring.length + 1 - (k + 1) = 0 := by omega
    rw [hdrop, List.drop_zero]

/-! ### The clean bit (R35) -/

theorem parcelClean_iff (s : State) (l : Lane) (last : Nat) :
    parcelClean s l last = true ↔
      ∀ i < 16, (historyAt s l (last - i)).valid = true ∧ (historyAt s l (last - i)).gap = false := by
  simp [parcelClean]

/-! ### The rings of a side (R36) -/

/-- The two stamp rings of a side's tracker. -/
def ringsOf (d : Side) (s : State) : List StampEntry × List StampEntry :=
  ((s.trackers.get d).ringFirst, (s.trackers.get d).ringSecond)

theorem ringsOf_eq_iff {d : Side} {s t : State} :
    ringsOf d t = ringsOf d s ↔ (t.trackers.get d).ringFirst = (s.trackers.get d).ringFirst ∧
      (t.trackers.get d).ringSecond = (s.trackers.get d).ringSecond := Prod.mk_inj

theorem forceTracker_rings (e : MapEntry) (t : Tracker) :
    (forceTracker e t).ringFirst = t.ringFirst ∧ (forceTracker e t).ringSecond = t.ringSecond := by
  unfold forceTracker
  split
  · exact ⟨rfl, rfl⟩
  · split <;> exact ⟨rfl, rfl⟩

/-- A TIMEBASE entry forces the tracker and leaves its rings; no entry of another class reaches a tracker. -/
theorem activateEntry_rings (d c : Side) (seek : Bool) (s : State) (e : MapEntry) :
    ringsOf d (activateEntry c seek s e) = ringsOf d s := by
  unfold activateEntry
  dsimp only
  split
  · refine ringsOf_eq_iff.mpr ?_
    rw [withTracker_trackers, withSideWalker_trackers, PerSide.get_modify]
    split
    · exact forceTracker_rings e _
    · exact ⟨rfl, rfl⟩
  · split
    · rfl
    · exact appendCue_keeps (ringsOf d) (fun _ _ => rfl) (fun _ _ => rfl) _ _
  · rfl

theorem seekSide_rings (d c : Side) (p : Nat) (s : State) : ringsOf d (seekSide c p s) = ringsOf d s :=
  foldl_keeps (ringsOf d) _ (activateEntry_rings d c true) _ _

/-! ### Pass start and pass ends (R36) -/

theorem startTracker_rings (enabled : Bool) (t : Tracker) :
    (startTracker enabled t).ringFirst = [] ∧ (startTracker enabled t).ringSecond = [] := by
  cases enabled <;> exact ⟨rfl, rfl⟩

theorem ringsOf_modify_startTracker (d c : Side) (enabled : Bool) (s : State) :
    ringsOf d { s with trackers := s.trackers.modify c (startTracker enabled) } =
      if d = c then ([], []) else ringsOf d s := by
  unfold ringsOf
  dsimp only
  rw [PerSide.get_modify]
  split
  · obtain ⟨hfirst, hsecond⟩ := startTracker_rings enabled (s.trackers.get d)
    rw [hfirst, hsecond]
  · rfl

/-- One side at pass start, enabled or not: its rings are emptied and the other side's stay. -/
theorem startSide_rings (p : Nat) (s : State) (d c : Side) :
    ringsOf d (startSide p s c) = if d = c then ([], []) else ringsOf d s := by
  unfold startSide
  split
  · calc ringsOf d (seekSide c p (startBlocks p ((lanesOf c).foldl startLane s) c))
        = ringsOf d (startBlocks p ((lanesOf c).foldl startLane s) c) := seekSide_rings d c p _
      _ = if d = c then ([], []) else ringsOf d ((lanesOf c).foldl startLane s) :=
          ringsOf_modify_startTracker d c true _
      _ = if d = c then ([], []) else ringsOf d s := by
          rw [foldl_keeps (ringsOf d) startLane fun _ _ => rfl]
  · exact ringsOf_modify_startTracker d c false s

theorem passStart_rings (p : Nat) (s : State) (d : Side) : ringsOf d (passStart p s) = ([], []) := by
  show ringsOf d (startSide p (startSide p _ .A) .B) = _
  rw [startSide_rings, startSide_rings]
  cases d <;> rfl

theorem endTracker_rings (t : Tracker) :
    (endTracker t).ringFirst = t.ringFirst ∧ (endTracker t).ringSecond = t.ringSecond := by
  unfold endTracker
  split <;> exact ⟨rfl, rfl⟩

theorem closePass_rings (d : Side) (s : State) : ringsOf d (closePass s) = ringsOf d s := by
  refine (installPending_keeps (ringsOf d) (fun _ _ _ _ => rfl) _).trans (ringsOf_eq_iff.mpr ?_)
  cases d
  · exact endTracker_rings s.trackers.a
  · exact endTracker_rings s.trackers.b

/-- Both pass ends: the work on a side's audio before the close reaches no tracker. -/
theorem passEnd_rings {audio : State → Side → State} (haudio : ∀ s c, (audio s c).trackers = s.trackers) (d : Side)
    (s : State) : ringsOf d (closePass ([Side.A, Side.B].foldl audio (endDetectors s))) = ringsOf d s := by
  have htrackers : ([Side.A, Side.B].foldl audio (endDetectors s)).trackers = s.trackers :=
    (foldl_keeps State.trackers audio haudio _ _).trans (endDetectors_trackers s)
  rw [closePass_rings, ringsOf, htrackers, ringsOf]

theorem flushedEnd_rings (d : Side) (s : State) : ringsOf d (flushedEnd s) = ringsOf d s :=
  passEnd_rings (flushSide_keeps eqKeeps_trackers) d s

theorem discardingEnd_rings (d : Side) (s : State) : ringsOf d (discardingEnd s) = ringsOf d s :=
  passEnd_rings (discardSide_keeps eqKeeps_trackers) d s

/-! ### STATUS (R164) -/

/-- The state with other rings in a side's tracker. -/
def withRings (d : Side) (a b : List StampEntry) (s : State) : State :=
  { s with trackers := s.trackers.modify d fun t => { t with ringFirst := a, ringSecond := b } }

/-- The bytes of a side in STATUS show its tracker's state, steps and skew, and no ring. -/
theorem statusSide_withRings (d c : Side) (a b : List StampEntry) (s : State) :
    statusSide (withRings d a b s) c = statusSide s c := by
  cases d <;> cases c <;> rfl

theorem replyStatus_withRings (d : Side) (a b : List StampEntry) (s : State) :
    (replyStatus (withRings d a b s)).2 = (replyStatus s).2 := by
  unfold replyStatus
  rw [statusSide_withRings, statusSide_withRings]
  rfl

/-! ### The statement -/

/-- Settles O43: the pushes by induction on the entries pushed, the pass start and the pass ends by what each part of
them does to the rings of a side. -/
theorem stampRingsKeepTheNewestEntries : Obligations.StampRingsKeepTheNewestEntries := by
  unfold Obligations.StampRingsKeepTheNewestEntries
  refine ⟨foldl_pushStamp, pushStamp_of_length_le, fun d s t => ?push, fun p d s => ?start, fun d s => ?ends,
    replyStatus_withRings⟩
  case push =>
    exact ⟨parcelClean s (firstLane d) s.intake.position, parcelClean s (secondLane d) s.intake.position, rfl, rfl,
      parcelClean_iff _ _ _, parcelClean_iff _ _ _⟩
  case start => exact Prod.mk_inj.mp (passStart_rings p s d)
  case ends =>
    obtain ⟨hfirst, hsecond⟩ := ringsOf_eq_iff.mp (flushedEnd_rings d s)
    exact ⟨hfirst, hsecond, ringsOf_eq_iff.mp (discardingEnd_rings d s)⟩

end Sys2Proof.Machine
end

section
/-! Settles the statement on the factory kernel (R76): the rounding, the coefficients over the rationals, and where each
phase stands in the kernel. -/

namespace Sys2Proof.Machine

/-! ### Rounding half away from zero -/

/-- `c` is `y` rounded to a nearest integer, and of two nearest ones the one farther from zero (R76). -/
def RoundedHalfAway (c : Int) (y : ℚ) : Prop :=
  |(c : ℚ) - y| ≤ 1 / 2 ∧ (|(c : ℚ) - y| = 1 / 2 → |y| < |(c : ℚ)|)

theorem RoundedHalfAway.neg {c : Int} {y : ℚ} (h : RoundedHalfAway c y) : RoundedHalfAway (-c) (-y) := by
  have hdist : |((-c : Int) : ℚ) - -y| = |(c : ℚ) - y| := by
    rw [Int.cast_neg, neg_sub_neg, abs_sub_comm]
  unfold RoundedHalfAway
  rw [hdist, Int.cast_neg, abs_neg, abs_neg]
  exact h

/-- Of a non-negative number, the floor of the number and a half: the floor is never below by a half, so that a tie lies
below the floor. -/
theorem roundedHalfAway_natDiv (m d : Nat) (hd : 0 < d) :
    RoundedHalfAway (((2 * m + d) / (2 * d) : Nat) : Int) ((m : ℚ) / d) := by
  obtain ⟨c, hc⟩ : ∃ c, c = (2 * m + d) / (2 * d) := ⟨_, rfl⟩
  rw [← hc]
  have hdq : (0 : ℚ) < d := by exact_mod_cast hd
  have hlo : (c : ℚ) * (2 * d) ≤ 2 * m + d := by
    exact_mod_cast (Nat.le_div_iff_mul_le (by omega)).mp hc.le
  have hhi : 2 * (m : ℚ) + d < (c + 1) * (2 * d) := by
    exact_mod_cast (Nat.div_lt_iff_lt_mul (by omega)).mp (hc.symm.trans_lt c.lt_succ_self)
  have habove : (c : ℚ) - m / d ≤ 1 / 2 := by
    rw [sub_le_iff_le_add, ← sub_le_iff_le_add', le_div_iff₀ hdq]
    linarith
  have hbelow : -(1 / 2) < (c : ℚ) - m / d := by
    rw [lt_sub_iff_add_lt, ← lt_sub_iff_add_lt', div_lt_iff₀ hdq]
    linarith
  rw [RoundedHalfAway, Int.cast_natCast]
  refine ⟨abs_le.mpr ⟨hbelow.le, habove⟩, fun htie => ?_⟩
  have hgap : (c : ℚ) - m / d = 1 / 2 := (eq_or_eq_neg_of_abs_eq htie).resolve_right hbelow.ne'
  rw [abs_of_nonneg (by positivity), abs_of_nonneg (Nat.cast_nonneg c)]
  linarith

theorem roundHalfAway_rounds {n : Int} {d : Nat} {y : ℚ} (hd : 0 < d) (hy : y = (n : ℚ) / d) :
    RoundedHalfAway (roundHalfAway n d) y := by
  subst hy
  unfold roundHalfAway
  split
  case isTrue hn =>
    obtain ⟨m, rfl⟩ := Int.eq_ofNat_of_zero_le hn
    exact roundedHalfAway_natDiv m d hd
  case isFalse hn =>
    obtain ⟨m, hm⟩ := Int.eq_ofNat_of_zero_le (show 0 ≤ -n by omega)
    obtain rfl : n = -(m : Int) := by omega
    have hneg := (roundedHalfAway_natDiv m d hd).neg
    rw [← neg_div, ← Int.cast_natCast (R := ℚ) m, ← Int.cast_neg] at hneg
    rwa [neg_neg, Int.toNat_natCast]

/-! ### The coefficients of a phase -/

/-- The four coefficients of the cubic Lagrange interpolator at the fraction `f` (R76). -/
def cubicLagrange (f : ℚ) : List ℚ :=
  [-f * (f - 1) * (f - 2) / 6, (f + 1) * (f - 1) * (f - 2) / 2, -(f + 1) * f * (f - 2) / 2, (f + 1) * f * (f - 1) / 6]

/-- Each coefficient the model computes for a phase is the interpolator's, times 16,384 and rounded: its fraction over a
power of two is that product. -/
theorem lagrange_rounds (p j : Nat) (hj : j < 4) :
    ∃ (c : Int) (x : ℚ), (lagrange p)[j]? = some c ∧ (cubicLagrange ((p : ℚ) / 1024))[j]? = some x ∧
      RoundedHalfAway c (16384 * x) := by
  interval_cases j <;> exact ⟨_, _, rfl, rfl, roundHalfAway_rounds (by norm_num) (by push_cast; ring)⟩

/-! ### The phases of the kernel (R75) -/

theorem drop_kernelFrom (p n q : Nat) : (kernelFrom (p + n) q).drop (4 * p) = kernelFrom n (q + p) := by
  induction p generalizing q with
  | zero => rw [Nat.zero_add, Nat.mul_zero, List.drop_zero, Nat.add_zero]
  | succ p ih =>
    calc (kernelFrom (p + 1 + n) q).drop (4 * (p + 1))
        = (lagrange q ++ kernelFrom (p + n) (q + 1)).drop (4 + 4 * p) := by
          rw [Nat.add_right_comm, Nat.mul_succ, Nat.add_comm (4 * p)]
          rfl
      _ = (kernelFrom (p + n) (q + 1)).drop (4 * p) := List.drop_length_add_append (l₁ := lagrange q) _
      _ = kernelFrom n (q + (p + 1)) := by rw [ih, Nat.add_assoc, Nat.add_comm 1 p]

/-- The coefficients the resampler reads at a phase of the factory kernel are those computed for that phase. -/
theorem coefficients_factoryKernel {p : Nat} (hp : p < 1024) : coefficients factoryKernel p = lagrange p := by
  obtain ⟨n, hn⟩ : ∃ n, 1024 = p + (n + 1) := ⟨1023 - p, by omega⟩
  rw [coefficients, factoryKernel, hn, drop_kernelFrom, Nat.zero_add]
  rfl

theorem factoryKernel_getElem? {p j : Nat} (hp : p < 1024) (hj : j < 4) :
    factoryKernel[4 * p + j]? = (lagrange p)[j]? := by
  rw [← coefficients_factoryKernel hp, coefficients, List.getElem?_take_of_lt hj, List.getElem?_drop]

/-! ### The kernel at work and in the store (R71, R178) -/

/-- Phase 0 passes the sample at the read position unchanged. -/
theorem interpolate_phase_zero (a b c d : Int) : interpolate [0, 16384, 0, 0] [a, b, c, d] = b := by
  have hsum : ([0, 16384, 0, 0].zipWith (· * ·) [a, b, c, d]).sum = 16384 * b := by simp
  rw [interpolate, hsum]
  omega

theorem reset_slot_zero_profile : (State.reset.store.slots.get 0).profile = some factoryProfile := rfl

/-! ### The statement -/

/-- Settles O46: each phase by the coefficients computed for it, and the listed phases by computing them. -/
theorem factoryKernelIsTheLagrangeInterpolator : Obligations.FactoryKernelIsTheLagrangeInterpolator := by
  unfold Obligations.FactoryKernelIsTheLagrangeInterpolator
  refine ⟨fun p hp => ?rounded, ?listed, ?stored, rfl, interpolate_phase_zero⟩
  case rounded =>
    intro f coeffs j hj
    rw [factoryKernel_getElem? hp hj]
    exact lagrange_rounds p j hj
  case listed =>
    have phase {p : Nat} {cs : List Int} (hp : p < 1024) (hcs : lagrange p = cs) :
        (factoryKernel.drop (4 * p)).take 4 = cs := (coefficients_factoryKernel hp).trans hcs
    exact ⟨phase (p := 0) (by decide) (by decide), phase (p := 1) (by decide) (by decide),
      phase (p := 256) (by decide) (by decide), phase (p := 384) (by decide) (by decide),
      phase (p := 512) (by decide) (by decide), phase (p := 768) (by decide) (by decide)⟩
  case stored => rw [reset_slot_zero_profile]; rfl

end Sys2Proof.Machine
end

section
/-! Settles the statements on three directives of the correction map: MAP DELETE, MAP READ and MAP CLEAR (R112 to R114).
First comes what an executed directive does, and what an edit of the map changes. -/

namespace Sys2Proof.Machine

/-! ### An executed directive (R8, R12, R159, R161) -/

theorem routed_eq_arrived (h : Header) (body : List Byte) (s : State) : routed h body s = arrived h body s := by
  unfold routed
  by_cases ha : addressIn h.addr = s.unit.unitAddress
  case pos => simp [ha, arrived, countReceived, withCounters]
  case neg =>
    unfold offerUpstream
    rw [if_neg ha]
    split
    case isTrue hroom =>
      have hroom : s.link.upstream.length < 4 := hroom
      simp [ha, hroom, Nat.not_le.mpr hroom, arrived, countReceived, withCounters, kindDirective]
    case isFalse hfull =>
      have hfull : ¬ s.link.upstream.length < 4 := hfull
      simp [ha, hfull, Nat.not_lt.mp hfull, arrived, countForwardDropped, countReceived, withCounters]

/-- With room in the queue the answer joins its tail, and a refusal is counted. -/
theorem runDirective_of_room (kind : Byte) (h : Header) (act : State → State × Reply) (s : State)
    (hroom : s.directives.length < 4) :
    runDirective kind h.tag act s = answered kind h (act s).2.code (act s).2.result (act s).1 := by
  obtain ⟨hfull, -⟩ | ⟨-, e⟩ := runDirective_cases kind h.tag act s
  case inl => omega
  case inr =>
    rw [e]
    unfold countRefused
    cases (act s).2.code <;> rfl

/-- A directive that executes acts on the state it arrived in, and is answered with what it replies there. -/
theorem done_takeDirective_of_executes {h : Header} {s u : State} {body : List Byte} {act : State → State × Reply}
    {code : AnswerCode} {result : List Byte} (hx : Executes h s) (hact : act (arrived h body s) = (u, ⟨code, result⟩)) :
    done (takeDirective h body act s) = .next (settleLines (answered (directiveKind body) h code result u)) := by
  obtain ⟨hrunning, haddr, hroom⟩ := hx
  have hreceiving : receiving s = true := by simp [receiving, hrunning]
  have hmeant : meantFor s.unit.unitAddress h.addr = true := by simpa [meantFor, broadcast] using haddr
  obtain ⟨hr, -⟩ | ⟨-, -, e⟩ | ⟨-, hm, -⟩ := takeDirective_cases h body act s
  · simp [hreceiving] at hr
  · rw [e, routed_eq_arrived, runDirective_of_room (directiveKind body) h act (arrived h body s) hroom, hact]
    rfl
  · simp [hmeant] at hm

/-! ### An edit of the map (R121) -/

/-- An edit moves a walker's next entry and nothing else of it. -/
theorem refreshNext_eq (es : List MapEntry) (considered : MapEntry → Bool) (w : Walker) :
    refreshNext es considered w = { w with next := (refreshNext es considered w).next } := by
  unfold refreshNext
  split <;> rfl

theorem setEntries_intakeWalker (es : List MapEntry) (s : State) :
    (setEntries es s).map.intakeWalker =
      { s.map.intakeWalker with next := (setEntries es s).map.intakeWalker.next } := refreshNext_eq _ _ _

theorem setEntries_sideWalker (es : List MapEntry) (s : State) (d : Side) :
    (setEntries es s).map.sideWalker.get d =
      { s.map.sideWalker.get d with next := ((setEntries es s).map.sideWalker.get d).next } := by
  cases d <;> exact refreshNext_eq _ _ _

/-- A directive that replaces the entries and is answered OK changes the map alone, and of its walkers the next entry. -/
theorem done_takeDirective_of_edit {h : Header} {s : State} {body : List Byte} {act : State → State × Reply}
    {es : List MapEntry} {result : List Byte} (hx : Executes h s)
    (hact : act (arrived h body s) = (setEntries es (arrived h body s), ⟨.ok, result⟩)) :
    ∃ t, done (takeDirective h body act s) = .next t ∧ t.map.entries = es ∧
      t = settleLines (answered (directiveKind body) h .ok result { arrived h body s with map := t.map }) ∧
      t.map.intakeWalker = { s.map.intakeWalker with next := t.map.intakeWalker.next } ∧
      ∀ d, t.map.sideWalker.get d = { s.map.sideWalker.get d with next := (t.map.sideWalker.get d).next } :=
  ⟨_, done_takeDirective_of_executes hx hact, rfl, rfl, setEntries_intakeWalker es (arrived h body s),
    setEntries_sideWalker es (arrived h body s)⟩

/-! ### The locked span (R107) -/

theorem exists_side_iff {p : Side → Prop} : (∃ d, p d) ↔ p .A ∨ p .B where
  mp := fun ⟨d, hd⟩ => match d with
    | .A => .inl hd
    | .B => .inr hd
  mpr h := h.elim (⟨.A, ·⟩) (⟨.B, ·⟩)

theorem forall_side_iff {p : Side → Prop} : (∀ d, p d) ↔ p .A ∧ p .B where
  mp h := ⟨h .A, h .B⟩
  mpr := fun ⟨ha, hb⟩ d => match d with
    | .A => ha
    | .B => hb

theorem sideActive_iff (s : State) (d : Side) : sideActive s d = true ↔ (s.trackers.get d).state ≠ .idle := bne_iff_ne

/-- A position lies above the low end of the span when it lies above the cursor of some side at work, or of the intake
walker when no side is. -/
theorem lowEnd_lt_iff (s : State) (stop : Nat) :
    lowEnd s < stop ↔ (∃ d, (s.trackers.get d).state ≠ .idle ∧ (s.resamplers.get d).cursor < stop) ∨
      ((∀ d, (s.trackers.get d).state = .idle) ∧ s.map.intakeWalker.cursor < stop) := by
  have hidle (d : Side) : (s.trackers.get d).state = .idle ↔ ¬ sideActive s d = true := by
    rw [sideActive_iff, not_not]
  simp only [← sideActive_iff, hidle, exists_side_iff, forall_side_iff]
  unfold lowEnd
  cases sideActive s .A <;> cases sideActive s .B <;> simp [PerSide.get]

theorem intersectsSpan_iff_late (s : State) (start stop : Nat) :
    intersectsSpan s start stop = true ↔ Late s start stop := by
  rw [intersectsSpan, Bool.and_eq_true, Bool.and_eq_true, decide_eq_true_eq, decide_eq_true_eq, lowEnd_lt_iff, and_assoc]
  rfl

/-! ### MAP DELETE (R112) -/

theorem entryById_of_absent {es : List MapEntry} {id : Nat} (h : ∀ e ∈ es, e.id ≠ id) : entryById es id = none := by
  simpa [entryById] using h

/-- The one entry with an id is the one found by it. -/
theorem entryById_of_only {before after : List MapEntry} {e : MapEntry} {id : Nat} (he : e.id = id)
    (hothers : ∀ f ∈ before ++ after, f.id ≠ id) : entryById (before ++ e :: after) id = some e := by
  have hbefore : entryById before id = none := entryById_of_absent fun f hf => hothers f (List.mem_append_left _ hf)
  unfold entryById at hbefore ⊢
  rw [List.find?_append, hbefore, List.find?_cons_of_pos (by simp [he])]
  rfl

/-- Deleting by id takes the one entry with the id and leaves the others in their order. -/
theorem filter_id_ne_of_only {before after : List MapEntry} {e : MapEntry}
    (hothers : ∀ f ∈ before ++ after, f.id ≠ e.id) :
    (before ++ e :: after).filter (·.id != e.id) = before ++ after := by
  have hkept : (before ++ after).filter (·.id != e.id) = before ++ after :=
    List.filter_eq_self.mpr fun f hf => by simpa using hothers f hf
  rw [List.filter_append, List.filter_cons_of_neg (by simp), ← List.filter_append, hkept]

/-- The result of a refused MAP DELETE: no fields, the number held and the span (12.4). -/
def refusedDelete (s : State) : List Byte := List.replicate 16 0 ++ bytesBE 2 s.map.entries.length ++ spanBlock s

theorem replyMapDelete_of_range {id : BitVec 16} (s : State) (hid : 511 < id.toNat) :
    replyMapDelete id s = (s, ⟨.range, refusedDelete s⟩) := if_pos hid

theorem replyMapDelete_of_empty {id : BitVec 16} {s : State} (hid : id.toNat ≤ 511)
    (habsent : ∀ e ∈ s.map.entries, e.id ≠ id.toNat) : replyMapDelete id s = (s, ⟨.empty, refusedDelete s⟩) := by
  simp [replyMapDelete, Nat.not_lt.mpr hid, entryById_of_absent habsent, refusedDelete]

theorem replyMapDelete_of_late {id : BitVec 16} {s : State} {e : MapEntry} (hid : id.toNat ≤ 511)
    (he : entryById s.map.entries id.toNat = some e) (hlate : Late s e.start e.stop) :
    replyMapDelete id s = (s, ⟨.late, refusedDelete s⟩) := by
  simp [replyMapDelete, Nat.not_lt.mpr hid, he, (intersectsSpan_iff_late _ _ _).mpr hlate, refusedDelete]

theorem replyMapDelete_of_ok {id : BitVec 16} {s : State} {e : MapEntry} (hid : id.toNat ≤ 511)
    (he : entryById s.map.entries id.toNat = some e) (hfree : ¬ Late s e.start e.stop) :
    replyMapDelete id s = (setEntries (s.map.entries.filter (·.id != e.id)) s,
      ⟨.ok, entryBytes e ++ bytesBE 2 (s.map.entries.filter (·.id != e.id)).length ++ spanBlock s⟩) := by
  rw [← intersectsSpan_iff_late] at hfree
  simp [replyMapDelete, Nat.not_lt.mpr hid, he, hfree]

/-- Settles O30: each outcome by the test that decides it, and the deletion as an edit of the map. -/
theorem mapDeleteChecksInOrder : Obligations.MapDeleteChecksInOrder := by
  unfold Obligations.MapDeleteChecksInOrder
  intro h id s hx
  refine ⟨fun hid => ?range, fun hid habsent => ?empty, fun before e after hid hentries he hothers => ?held⟩
  case range => exact done_takeDirective_of_executes hx (replyMapDelete_of_range _ hid)
  case empty =>
    refine done_takeDirective_of_executes hx (replyMapDelete_of_empty hid ?_)
    exact habsent
  case held =>
    have hfound : entryById s.map.entries id.toNat = some e := hentries ▸ entryById_of_only he hothers
    have hleft : s.map.entries.filter (·.id != e.id) = before ++ after :=
      hentries ▸ filter_id_ne_of_only (he ▸ hothers)
    refine ⟨fun hlate => ?late, fun hfree => ?ok⟩
    case late => exact done_takeDirective_of_executes hx (replyMapDelete_of_late hid hfound hlate)
    case ok =>
      rw [← hleft]
      exact done_takeDirective_of_edit hx (replyMapDelete_of_ok hid hfound hfree)

/-! ### MAP READ (R114) -/

/-- The bits of the byte that names a set of lanes are the lanes of the set. -/
theorem laneByte_bits (p : Lane → Bool) :
    (∀ l : Lane, (byteOf ((allLanes.filter p).map fun l => 2 ^ l.val).sum).getLsbD l.val = p l) ∧
      (byteOf ((allLanes.filter p).map fun l => 2 ^ l.val).sum).toNat < 16 := by
  revert p
  decide

/-- The byte MAP READ names an entry's active lanes by (12.4). -/
def activeByte (s : State) (e : MapEntry) : Byte := byteOf ((activeLanes s e).map fun l => 2 ^ l.val).sum

theorem activeByte_lt (s : State) (e : MapEntry) : (activeByte s e).toNat < 16 := (laneByte_bits _).2

/-- Bit by bit, what being active on a lane means. -/
theorem activeByte_getLsbD_iff (s : State) (e : MapEntry) (l : Lane) :
    (activeByte s e).getLsbD l.val = true ↔
      let w := if e.cls = .threshold then s.map.intakeWalker else s.map.sideWalker.get (sideOf l)
      w.running = true ∧ e.id ∈ w.active.get l := by
  rw [activeByte, activeLanes, (laneByte_bits _).1 l, Bool.and_eq_true, List.contains_iff_mem]

theorem replyMapRead_of_range {n : BitVec 16} (s : State) (hn : 511 < n.toNat) :
    replyMapRead n s =
      (s, ⟨.range, List.replicate 17 0 ++ (bytesBE 2 s.map.entries.length ++ spanBlock s)⟩) := by
  unfold replyMapRead
  cases s.map.entries[n.toNat]? <;> simp [hn]

theorem replyMapRead_of_empty {n : BitVec 16} {s : State} (hn : n.toNat ≤ 511) (hheld : s.map.entries.length ≤ n.toNat) :
    replyMapRead n s =
      (s, ⟨.empty, List.replicate 17 0 ++ (bytesBE 2 s.map.entries.length ++ spanBlock s)⟩) := by
  simp [replyMapRead, hheld, Nat.not_lt.mpr hn]

theorem replyMapRead_of_ok {n : BitVec 16} {s : State} {e : MapEntry} (hn : n.toNat ≤ 511)
    (he : s.map.entries[n.toNat]? = some e) :
    replyMapRead n s =
      (s, ⟨.ok, entryBytes e ++ [activeByte s e] ++ (bytesBE 2 s.map.entries.length ++ spanBlock s)⟩) := by
  simp [replyMapRead, he, Nat.not_lt.mpr hn, activeByte]

/-- Settles O31: each outcome by the ordinal, and the bits of the active lanes by what being active means. -/
theorem mapReadReportsEntryAndActiveLanes : Obligations.MapReadReportsEntryAndActiveLanes := by
  unfold Obligations.MapReadReportsEntryAndActiveLanes
  intro h n s hx
  refine ⟨fun hn => ?range, fun hn hheld => ?empty, fun e hn he => ?ok⟩
  case range => exact done_takeDirective_of_executes hx (replyMapRead_of_range _ hn)
  case empty => exact done_takeDirective_of_executes hx (replyMapRead_of_empty hn hheld)
  case ok =>
    exact ⟨activeByte s e, activeByte_getLsbD_iff s e, activeByte_lt s e,
      done_takeDirective_of_executes hx (replyMapRead_of_ok hn he)⟩

/-! ### MAP CLEAR (R113) -/

/-- The entries MAP CLEAR keeps: those that meet the locked span. -/
def lateEntries (s : State) : List MapEntry := s.map.entries.filter fun e => intersectsSpan s e.start e.stop

theorem replyMapClear_eq (s : State) :
    replyMapClear s = (setEntries (lateEntries s) s,
      ⟨.ok, bytesBE 2 (s.map.entries.length - (lateEntries s).length) ++ bytesBE 2 (lateEntries s).length
        ++ spanBlock s⟩) := rfl

theorem lateEntries_sublist (s : State) : (lateEntries s).Sublist s.map.entries := List.filter_sublist

theorem mem_lateEntries_iff (s : State) (e : MapEntry) :
    e ∈ lateEntries s ↔ e ∈ s.map.entries ∧ Late s e.start e.stop := by
  rw [lateEntries, List.mem_filter, intersectsSpan_iff_late]

theorem count_lateEntries {s : State} {e : MapEntry} (he : Late s e.start e.stop) :
    (lateEntries s).count e = s.map.entries.count e :=
  List.count_filter (p := fun e : MapEntry => intersectsSpan s e.start e.stop) ((intersectsSpan_iff_late s _ _).mpr he)

/-- With no pass running there is no span, and nothing is kept (R107). -/
theorem lateEntries_of_not_running {s : State} (hs : s.intake.running = false) : lateEntries s = [] := by
  refine List.eq_nil_iff_forall_not_mem.mpr fun e he => ?_
  obtain ⟨-, hrunning, -⟩ := (mem_lateEntries_iff s e).mp he
  simp [hs] at hrunning

/-- Settles O32: the clearing is an edit that leaves the entries that meet the span. -/
theorem mapClearKeepsTheLockedSpan : Obligations.MapClearKeepsTheLockedSpan := by
  unfold Obligations.MapClearKeepsTheLockedSpan
  intro h s hx
  have hkept : (lateEntries s).length ≤ s.map.entries.length := (lateEntries_sublist s).length_le
  obtain ⟨t, hexec, hentries, hframe⟩ :=
    done_takeDirective_of_edit hx (replyMapClear_eq (arrived h (directiveBody (.mapClear h)) s))
  have hentries : t.map.entries = lateEntries s := hentries
  refine ⟨t, s.map.entries.length - (lateEntries s).length, (lateEntries s).length, hexec, ?_⟩
  rw [hentries]
  refine ⟨lateEntries_sublist s, mem_lateEntries_iff s, fun e he => count_lateEntries he, lateEntries_of_not_running,
    rfl, Nat.sub_add_cancel hkept, fun hnone => ?_, hframe⟩
  have hnothing : lateEntries s = [] := List.sublist_nil.mp (hnone ▸ lateEntries_sublist s)
  simp [hnone, hnothing]

end Sys2Proof.Machine
end

section
/-! Settles the statement on the gain stage (R133): its floor, its saturation, and the two gains that it names. -/

namespace Sys2Proof.Machine

/-! ### Saturation (2.4) -/

theorem saturate_of_mem_range {x : Int} (hlow : -8388608 ≤ x) (hhigh : x ≤ 8388607) : saturate x = x := by
  rw [saturate, min_eq_right hhigh, max_eq_right hlow]

theorem saturate_mem_range (x : Int) : -8388608 ≤ saturate x ∧ saturate x ≤ 8388607 :=
  ⟨le_max_left _ _, max_le (by decide) (min_le_left _ _)⟩

theorem saturate_saturate (x : Int) : saturate (saturate x) = saturate x := by
  obtain ⟨hlow, hhigh⟩ := saturate_mem_range x
  exact saturate_of_mem_range hlow hhigh

/-! ### The gain stage's value before saturation (R133) -/

/-- The quotient is the floor: with a positive divisor the remainder is never negative, whatever the sample's sign. -/
theorem gainRaw_floor (y : Int) (g : Nat) :
    4096 * gainRaw y g ≤ y * g + 2048 ∧ y * g + 2048 < 4096 * gainRaw y g + 4096 :=
  ⟨Int.mul_ediv_self_le (by decide), Int.lt_mul_ediv_self_add (by decide)⟩

/-- At unity the rounding half is lost in the floor. -/
theorem gainRaw_unity (y : Int) : gainRaw y 4096 = y := by
  have hfloor := gainRaw_floor y 4096
  omega

theorem gainRaw_zero (y : Int) : gainRaw y 0 = 0 := by
  have hfloor := gainRaw_floor y 0
  omega

/-! ### The gain stage's sample (R133) -/

theorem laneOutput_sample (sets : Quad (List Int)) (tail : Bool) (q : EqLane) (r : LaneRecord) :
    (laneOutput sets tail q r).sample = saturate (gainRaw (saturate (filterRaw (sets.get r.eqSet) q.line)) r.gain) := rfl

/-- Unity passes the equalizer's sample: it stands in the sample range already, so the second saturation changes nothing. -/
theorem laneOutput_sample_of_unity {r : LaneRecord} (hgain : r.gain = 4096) (sets : Quad (List Int)) (tail : Bool)
    (q : EqLane) : (laneOutput sets tail q r).sample = saturate (filterRaw (sets.get r.eqSet) q.line) := by
  rw [laneOutput_sample, hgain, gainRaw_unity, saturate_saturate]

theorem laneOutput_sample_of_zero {r : LaneRecord} (hgain : r.gain = 0) (sets : Quad (List Int)) (tail : Bool)
    (q : EqLane) : (laneOutput sets tail q r).sample = 0 := by
  rw [laneOutput_sample, hgain, gainRaw_zero, saturate_of_mem_range (by decide) (by decide)]

/-- Settles O51: the floor's bounds, then the two gains; the last half fixes the floor's direction on both signs of a
tie. -/
theorem gainScalesRoundsAndSaturates : Obligations.GainScalesRoundsAndSaturates := by
  unfold Obligations.GainScalesRoundsAndSaturates
  refine ⟨fun sets tail q r => ?scaled, ?ties⟩
  case scaled =>
    obtain ⟨hbelow, habove⟩ := gainRaw_floor (saturate (filterRaw (sets.get r.eqSet) q.line)) r.gain
    exact ⟨_, _, rfl, hbelow, habove, laneOutput_sample sets tail q r,
      fun hgain => laneOutput_sample_of_unity hgain sets tail q, fun hgain => laneOutput_sample_of_zero hgain sets tail q⟩
  case ties => decide

end Sys2Proof.Machine
end

section
/-! Settles the statements on the choice of the clean queue (R155) and on ACK EVENTS (R148). -/

namespace Sys2Proof.Machine

/-! ### The side that is not a side (R155) -/

theorem other_ne (d : Side) : d.other ≠ d := by cases d <;> decide

theorem other_other (d : Side) : d.other.other = d := by cases d <;> rfl

theorem eq_other_of_ne {d e : Side} (h : e ≠ d) : e = d.other := by
  revert h
  cases d <;> cases e <;> decide

/-! ### The sources that hold a parcel (R152, R154) -/

/-- An originated parcel carries the unit address with the top two bits 0 (R13, R192). -/
theorem originate_eq_originated (s : State) (kind tag : Byte) (body : List Byte) :
    originate s kind tag body = originated s kind tag body := by
  simp [originate, originated, addressByte]

theorem holdsParcel_clean_iff (s : State) (d : Side) :
    holdsParcel s (.clean d) = true ↔ s.cleanQueues.get d ≠ [] := by
  simp [holdsParcel, headParcel]

theorem nonCleanHolds_iff (s : State) : NonCleanHolds s ↔ ∃ x ∈ nonCleanSources, holdsParcel s x = true := by
  simp [NonCleanHolds, nonCleanSources, holdsParcel, headParcel]

theorem nonCleanChoice_eq_none_iff (s : State) : nonCleanChoice s = none ↔ ¬ NonCleanHolds s := by
  rw [nonCleanChoice, List.find?_eq_none, nonCleanHolds_iff]
  simp only [not_exists, not_and]

/-! ### The arbiter's choice of a clean queue (R153, R155) -/

/-- A clean queue that holds a parcel is the chosen one when the next side is its own, or the other queue is empty. -/
theorem cleanChoice_of_turn {s : State} {d : Side} (hholds : s.cleanQueues.get d ≠ [])
    (hturn : s.arbiter.nextSide = d ∨ s.cleanQueues.get d.other = []) : cleanChoice s = some (.clean d) := by
  have hd : holdsParcel s (.clean d) = true := (holdsParcel_clean_iff s d).mpr hholds
  unfold cleanChoice
  by_cases hnext : s.arbiter.nextSide = d
  case pos => rw [hnext, List.find?_cons_of_pos hd]
  case neg =>
    have hempty : ¬ holdsParcel s (.clean d.other) = true := by
      rw [holdsParcel_clean_iff, not_not]
      exact hturn.resolve_left hnext
    rw [eq_other_of_ne hnext, other_other, List.find?_cons_of_neg hempty, List.find?_cons_of_pos hd]

/-- The clean choice stands unless a non-clean parcel is owed and one waits. -/
theorem arbiterPick_of_cleanChoice {s : State} {x : Source} (hclean : cleanChoice s = some x)
    (hfree : s.arbiter.owed = false ∨ ¬ NonCleanHolds s) : arbiterPick s = some x := by
  unfold arbiterPick
  split
  case isTrue howed =>
    have hnone : nonCleanChoice s = none :=
      (nonCleanChoice_eq_none_iff s).mpr (hfree.resolve_left (by simp [howed]))
    rw [hnone, hclean, Option.none_or]
  case isFalse => rw [hclean, Option.some_or]

theorem makeChoice_of_pick {s : State} {x : Source} (hup : s.link.link.d = .up) (hidle : s.arbiter.sending = none)
    (hpick : arbiterPick s = some x) :
    makeChoice s = { s with arbiter := { s.arbiter with sending := (headParcel s x).map fun p => ⟨x, p⟩ } } := by
  simp only [makeChoice, hup, hidle, and_self, if_true, hpick]

/-- ARBITER_CHOICE takes the head of the clean queue whose turn it is. -/
theorem exec_arbiterChoice_of_turn {s : State} {d : Side} {p : CleanParcel} {rest : List CleanParcel}
    (hup : s.link.link.d = .up) (hidle : s.arbiter.sending = none) (hfree : s.arbiter.owed = false ∨ ¬ NonCleanHolds s)
    (hqueue : s.cleanQueues.get d = p :: rest) (hturn : s.arbiter.nextSide = d ∨ s.cleanQueues.get d.other = []) :
    exec .arbiterChoice s = .next (settleLines { s with arbiter := { s.arbiter with
      sending := some ⟨.clean d, originated s 0x41 0 (cleanBody p)⟩ } }) := by
  have hpick : arbiterPick s = some (.clean d) :=
    arbiterPick_of_cleanChoice (cleanChoice_of_turn (by simp [hqueue]) hturn) hfree
  have hhead : headParcel s (.clean d) = some (originated s 0x41 0 (cleanBody p)) := by
    rw [← originate_eq_originated, headParcel, hqueue]
    rfl
  show done (makeChoice s) = _
  rw [makeChoice_of_pick hup hidle hpick, hhead]
  rfl

/-! ### The transmission of a CLEAN parcel (R153, R155) -/

theorem exec_parcelTransmitted_of_clean {s : State} {d : Side} {x : Parcel}
    (hx : s.arbiter.sending = some ⟨.clean d, x⟩) :
    exec .parcelTransmitted s = .next (settleLines { s with
      cleanQueues := s.cleanQueues.modify d List.tail, arbiter := ⟨d.other, true, none⟩ }) := by
  show done (completeTransmission s) = _
  rw [completeTransmission, hx]
  rfl

/-- Settles O15: the choice by whose turn it is; after a CLEAN parcel of a side it is the other side's turn. -/
theorem cleanQueuesAreChosenByTheNextSide : Obligations.CleanQueuesAreChosenByTheNextSide := by
  unfold Obligations.CleanQueuesAreChosenByTheNextSide
  intro s
  refine ⟨fun hup hidle hfree d p rest hqueue hturn => exec_arbiterChoice_of_turn hup hidle hfree hqueue hturn,
    fun d x hx => ⟨_, exec_parcelTransmitted_of_clean hx, rfl, rfl, ?taken, ?kept, fun hholds hup hnone => ?turn⟩⟩
  case taken => exact (PerSide.get_modify _ _ _ _).trans (if_pos rfl)
  case kept => exact (PerSide.get_modify _ _ _ _).trans (if_neg (other_ne d))
  case turn =>
    obtain ⟨p, rest, hqueue⟩ := List.exists_cons_of_ne_nil hholds
    exact ⟨_, _, exec_arbiterChoice_of_turn hup rfl (.inr hnone) hqueue (.inl rfl), rfl⟩

/-! ### ACK EVENTS (R10, R148) -/

theorem eventKind_code_lt (k : EventKind) : k.code < 12 := by cases k <;> decide

/-- The flags after the clear: those set before whose kinds are not named. -/
theorem getLsbD_acknowledged (flags : BitVec 12) (set : BitVec 16) (k : EventKind) :
    (flags &&& ~~~set.setWidth 12).getLsbD k.code = (flags.getLsbD k.code && !set.getLsbD k.code) := by
  simp [eventKind_code_lt k]

theorem holdsEvent_linkDegraded (set : BitVec 16) :
    holdsEvent (set.setWidth 12) .linkDegraded = set.getLsbD 6 := by
  simp [holdsEvent, EventKind.code]

/-- The state after the acknowledgement of a set of event kinds (R148). -/
def acknowledged (set : BitVec 16) (s : State) : State :=
  { s with
    flags := s.flags &&& ~~~set.setWidth 12
    link := { s.link with errors := if set.getLsbD 6 then ⟨0, 0⟩ else s.link.errors } }

theorem replyAckEvents_eq (set : BitVec 16) (s : State) :
    replyAckEvents set s = (acknowledged set s, ⟨.ok, bytesBE 2 (acknowledged set s).flags.toNat⟩) := by
  unfold replyAckEvents acknowledged
  dsimp only
  rw [holdsEvent_linkDegraded]
  cases set.getLsbD 6 <;> rfl

/-- Settles O36: the answer carries the flags after the clear; the frame names the two parts an acknowledgement changes. -/
theorem ackEventsClearsTheNamedFlags : Obligations.AckEventsClearsTheNamedFlags := by
  unfold Obligations.AckEventsClearsTheNamedFlags
  intro h set s hx
  exact ⟨_, done_takeDirective_of_executes hx (replyAckEvents_eq set _), getLsbD_acknowledged s.flags set, rfl, rfl⟩

end Sys2Proof.Machine
end

section
/-! Settles the statement on READ SETTING (R166): the two lists of values are the model's values in id order, so an id
names a setting exactly when it stands in them. -/

namespace Sys2Proof.Machine

/-! ### The setting ids (12.5) -/

theorem settingOf_of_ge {n : Nat} (hn : 42 ≤ n) : settingOf n = none := by
  obtain ⟨k, rfl⟩ := Nat.exists_eq_add_of_le' hn
  rfl

theorem length_allSettings : allSettings.length = 42 := rfl

/-- An id names the setting that stands at its place in the list, and none beyond the list's end. -/
theorem getElem?_allSettings (n : Nat) : allSettings[n]? = settingOf n := by
  by_cases hn : n < 42
  case pos =>
    have hplaces : ∀ i < 42, allSettings[i]? = settingOf i := by decide
    exact hplaces n hn
  case neg =>
    have hge : 42 ≤ n := Nat.le_of_not_lt hn
    rw [settingOf_of_ge hge, List.getElem?_eq_none (length_allSettings.trans_le hge)]

/-! ### The codes of the settings' values (12.5) -/

theorem onCode_eq_boolCode (b : Bool) : onCode b = boolCode b := by cases b <;> rfl

theorem reverseCode_eq_directionCode (d : Direction) : reverseCode d = directionCode d := by cases d <;> rfl

theorem idxOf_eq_refLaneCode (r : RefLane) : [RefLane.first, .second, .auto].idxOf r = refLaneCode r := by
  cases r <;> rfl

theorem idxOf_eq_skewModeCode (m : SkewMode) : [SkewMode.auto, .off].idxOf m = skewModeCode m := by cases m <;> rfl

theorem idxOf_eq_repairModeCode (m : RepairMode) :
    [RepairMode.pass, .mute, .hold, .twin].idxOf m = repairModeCode m := by cases m <;> rfl

theorem sourceNumber_eq_indicatorCode (x : IndicatorSource) : sourceNumber x = indicatorCode x := by cases x <;> rfl

theorem ite_eq_sideCode (d : Side) : (if d = .B then 1 else 0 : Int) = sideCode d := by cases d <;> rfl

/-! ### The values in id order (R166) -/

theorem settingValues_eq_map (t : Settings) : settingValues t = allSettings.map (settingValue t) := by
  dsimp only [settingValues, List.cons_append, List.nil_append]
  simp only [onCode_eq_boolCode, reverseCode_eq_directionCode, idxOf_eq_refLaneCode, idxOf_eq_skewModeCode,
    idxOf_eq_repairModeCode, sourceNumber_eq_indicatorCode, ite_eq_sideCode]
  rfl

theorem appliedValues_eq_map (a : Applied) (t : Settings) :
    appliedValues a t = allSettings.map (appliedValue a t) := by
  simp only [appliedValues, settingValues_eq_map, onCode_eq_boolCode, reverseCode_eq_directionCode]
  rfl

/-! ### READ SETTING (R166) -/

theorem replyReadSetting_of_some {id : Byte} {n : SettingId} (s : State) (hn : settingOf id.toNat = some n) :
    replyReadSetting id s = (s, ⟨.ok, [id] ++ signedBE 4 (settingValue s.settings n)
      ++ signedBE 4 (appliedValue s.intake.applied s.settings n)⟩) := by
  rw [replyReadSetting, hn]

theorem replyReadSetting_of_none {id : Byte} (s : State) (hn : settingOf id.toNat = none) :
    replyReadSetting id s = (s, ⟨.unknown, List.replicate 9 0⟩) := by
  rw [replyReadSetting, hn]

/-- Settles O27: the values at an id's place are those of the setting it names, which the directive reports. -/
theorem readSettingReportsTableAndAppliedValues : Obligations.ReadSettingReportsTableAndAppliedValues := by
  unfold Obligations.ReadSettingReportsTableAndAppliedValues
  intro h id s hx
  rw [settingValues_eq_map, appliedValues_eq_map, List.length_map, List.length_map, List.getElem?_map,
    List.getElem?_map, getElem?_allSettings]
  refine ⟨length_allSettings, length_allSettings, fun v a hv ha => ?named, fun hid => ?unnamed⟩
  case named =>
    obtain ⟨n, hn, rfl⟩ := Option.map_eq_some_iff.mp hv
    obtain rfl : appliedValue s.intake.applied s.settings n = a := by simpa [hn] using ha
    exact done_takeDirective_of_executes hx (replyReadSetting_of_some _ hn)
  case unnamed => exact done_takeDirective_of_executes hx (replyReadSetting_of_none _ (settingOf_of_ge hid))

end Sys2Proof.Machine
end

section
/-! What every change of a part of the state keeps, said once: a property that a part does not bear on keeps every change of
that part by definition, so that an invariant has to speak only of the changes that touch it. -/

namespace Sys2Proof.Machine

/-! ### The profiles the store holds (R178, R180) -/

theorem mem_profiles_iff (x : ProfileStore) (p : Profile) :
    p ∈ x.profiles ↔ (∃ n, (x.slots.get n).profile = some p) ∨ ∃ n m, x.state = .saving n p m := by
  have hslots : p ∈ x.slots.toList.filterMap (·.profile) ↔ ∃ n, (x.slots.get n).profile = some p := by
    simp [Quad.toList, Fin.exists_fin_succ, Quad.get]
  unfold ProfileStore.profiles
  rw [List.mem_append, hslots]
  cases x.state <;> simp [eq_comm]

theorem mem_profiles_of_slot {x : ProfileStore} {n : Fin 4} {p : Profile} (h : (x.slots.get n).profile = some p) :
    p ∈ x.profiles := (mem_profiles_iff x p).mpr (.inl ⟨n, h⟩)

/-- Of a store whose slots hold no other profile, and that saves nothing else, every profile was held before. -/
theorem profiles_subset {x y : ProfileStore}
    (hslots : ∀ n p, (y.slots.get n).profile = some p → p ∈ x.profiles)
    (hstate : ∀ n p m, y.state = .saving n p m → p ∈ x.profiles) : ∀ p ∈ y.profiles, p ∈ x.profiles := by
  intro p hp
  obtain ⟨n, hn⟩ | ⟨n, m, hs⟩ := (mem_profiles_iff y p).mp hp
  · exact hslots n p hn
  · exact hstate n p m hs

theorem mem_profiles_of_state {x : ProfileStore} {n : Fin 4} {p : Profile} {m : Bool} (h : x.state = .saving n p m) :
    p ∈ x.profiles := (mem_profiles_iff x p).mpr (.inr ⟨n, m, h⟩)

theorem damageSlots_profile (b : BitVec 4) (x : ProfileStore) (n : Fin 4) :
    ((damageSlots b x).slots.get n).profile = (x.slots.get n).profile := by
  unfold damageSlots
  rw [Quad.get_tabulate]
  split
  · exact invalidate_profile _
  · rfl

theorem spoilSlot_profile (n : Fin 4) (x : ProfileStore) (m : Fin 4) :
    ((spoilSlot n x).slots.get m).profile = (x.slots.get m).profile := by
  unfold spoilSlot
  rw [Quad.get_modify]
  split
  · exact invalidate_profile _
  · rfl

theorem abortStore_profiles (x : ProfileStore) : ∀ p ∈ (abortStore x).profiles, p ∈ x.profiles :=
  profiles_subset (fun _ _ h => mem_profiles_of_slot h) (fun _ _ _ h => by cases h)

theorem damageSlots_profiles (b : BitVec 4) (x : ProfileStore) : ∀ p ∈ (damageSlots b x).profiles, p ∈ x.profiles :=
  profiles_subset (fun n _ h => mem_profiles_of_slot ((damageSlots_profile b x n).symm.trans h))
    (fun _ _ _ h => mem_profiles_of_state h)

/-- A completed operation leaves in the store only profiles that it held: a save's copy stood in the store state. -/
theorem completeStore_profiles (x : ProfileStore) : ∀ p ∈ (completeStore x).profiles, p ∈ x.profiles := by
  unfold completeStore
  split
  case h_1 => exact fun _ hp => hp
  case h_2 n copy m hs =>
    refine profiles_subset (fun i p h => ?_) (fun _ _ _ h => by cases h)
    rw [Quad.get_modify] at h
    split at h
    · cases h
      exact mem_profiles_of_state hs
    · exact mem_profiles_of_slot h
  case h_3 n hs =>
    refine profiles_subset (fun i p h => ?_) (fun _ _ _ h => by cases h)
    rw [Quad.get_set] at h
    split at h
    · cases h
    · exact mem_profiles_of_slot h

/-- A save that begins adds its copy, the profile in use, to the profiles held (R180). -/
theorem saving_profiles (n : Fin 4) (m : Bool) (e : Nat) (s : State) :
    ∀ p ∈ ({ spoilSlot n s.store with state := .saving n (profileInUse s) m, elapsed := e } : ProfileStore).profiles,
      p ∈ s.store.profiles ∨ p = profileInUse s := by
  intro p hp
  obtain ⟨i, hi⟩ | ⟨i, k, hs⟩ := (mem_profiles_iff _ p).mp hp
  · exact .inl (mem_profiles_of_slot ((spoilSlot_profile n s.store i).symm.trans hi))
  · cases hs
    exact .inr rfl

theorem erasing_profiles (n : Fin 4) (s : State) :
    ∀ p ∈ ({ spoilSlot n s.store with state := .erasing n, elapsed := 0 } : ProfileStore).profiles, p ∈ s.store.profiles :=
  profiles_subset (fun i _ h => mem_profiles_of_slot ((spoilSlot_profile n s.store i).symm.trans h)) (fun _ _ _ h => by cases h)

/-- The profile the autoload uses is one the store holds, or the one built into the part (R184). -/
theorem autoloadChoice_mem (x : ProfileStore) :
    (autoloadChoice x).1 ∈ x.profiles ∨ (autoloadChoice x).1 = factoryProfile := by
  have hslot (n : Fin 4) : (x.slots.get n).profile.getD factoryProfile ∈ x.profiles ∨
      (x.slots.get n).profile.getD factoryProfile = factoryProfile := by
    cases h : (x.slots.get n).profile with
    | none => exact .inr rfl
    | some p => exact .inl (mem_profiles_of_slot h)
  unfold autoloadChoice
  dsimp only
  split
  · exact hslot x.header
  · split
    · exact hslot 0
    · exact .inr rfl

/-! ### The tables of the factory profile (R75, R129) -/

theorem length_kernelFrom (n p : Nat) : (kernelFrom n p).length = 4 * n := by
  induction n generalizing p with
  | zero => rfl
  | succ n ih =>
    rw [kernelFrom, List.length_append, ih]
    show 4 + 4 * n = _
    omega

theorem factoryProfile_whole : factoryProfile.whole :=
  ⟨length_kernelFrom 1024 0, fun n => by rw [factoryProfile, Quad.get_fill]; decide⟩

theorem whole_of_mem {s : State} {p : Profile} (h : TablesWhole s) (hp : p ∈ s.store.profiles ∨ p = factoryProfile) :
    p.whole := by
  obtain ⟨-, -, -, -, hstored⟩ := h
  obtain hp | rfl := hp
  · exact hstored p hp
  · exact factoryProfile_whole

/-! ### The judgement of a written value (R167) -/

theorem judgeSetting_allowed {k : SettingKind} {v w : Int} {code : AnswerCode}
    (hrange : ∀ lo hi, k = .numeric lo hi → lo ≤ hi) (h : judgeSetting k v = (some w, code)) : valueAllowed k w := by
  unfold judgeSetting at h
  unfold valueAllowed
  split at h
  case h_1 lo hi =>
    have := hrange lo hi rfl
    split_ifs at h <;> cases h <;> omega
  case h_2 => split_ifs at h with hlisted <;> cases h <;> simp [hlisted]
  case h_3 =>
    split_ifs at h with hlisted <;> cases h
    exact hlisted
  case h_4 =>
    split_ifs at h with hin <;> cases h
    exact hin

theorem settingKind_range (n : SettingId) (lo hi : Int) (h : settingKind n = .numeric lo hi) : lo ≤ hi := by
  cases n <;> cases h <;> decide

/-! ### Properties that the settings do not bear on (R168) -/

/-- A property closed under every table of settings and every effect a write can have. -/
structure WritesKeep (P : State → Prop) : Prop where
  settings : ∀ (s : State) x, P s → P { s with settings := x } := by exact fun _ _ h => h
  clamped : ∀ (s : State) r, P s →
    P { s with trackers := ⟨clampStep r s.trackers.a, clampStep r s.trackers.b⟩ } := by exact fun _ _ h => h
  raised : ∀ k s, P s → P (raise k s) := by exact fun _ _ h => h
  pause : ∀ (s : State) b, P s → P { s with lines := { s.lines with pauseRequest := b } } := by exact fun _ _ h => h
  restarted : ∀ s, P s → P (restartTrim s) := by exact fun _ h => h

theorem WritesKeep.stored {P : State → Prop} (h : WritesKeep P) (n : SettingId) (v : Int) (s : State) (hs : P s) :
    P (storeSetting n v s) := by
  have ht := h.settings s (putSetting s.settings n v) hs
  unfold storeSetting writeEffect
  split
  · exact h.clamped _ _ ht
  · unfold compareLinkErrors
    split
    · exact h.raised _ _ ht
    · exact ht
  · exact h.pause _ _ ht
  · exact h.restarted _ ht
  · exact h.restarted _ ht
  · exact ht

theorem WritesKeep.written {P : State → Prop} (h : WritesKeep P) (t : Settings) (s : State) (hs : P s) :
    P (writeProfile t s) := foldl_preserves P _ (fun u n hu => h.stored n _ u hu) _ _ hs

/-! ### The changes outside the audio stream -/

/-- A property closed under every change that commands make to one part of the state outside the audio stream. A change of
a part the property does not speak of keeps it as it is. -/
structure PartsKeep (P : State → Prop) : Prop where
  resetBlocks : ∀ f c s, P s → P (resetBlocks f c s)
  stored : ∀ n v s, valueAllowed (settingKind n) v → P s → P (storeSetting n v s)
  written : ∀ (p : Profile) s, (p ∈ s.store.profiles ∨ p = factoryProfile) → P s → P (writeProfile p.settings s)
  levels : ∀ (s : State) x, P s → P { s with lines := { s.lines with levels := x } } := by exact fun _ _ h => h
  lineDuty : ∀ s : State, P s → P { s with lines := { s.lines with lineDuty := s.lines.duty } } := by exact fun _ h => h
  pause : ∀ (s : State) b, P s → P { s with lines := { s.lines with pauseRequest := b } } := by exact fun _ _ h => h
  unit : ∀ (s : State) x, x.unitAddress = s.unit.unitAddress → x.strapAddress = s.unit.strapAddress → P s →
    P { s with unit := x } := by exact fun _ _ _ _ h => h
  address : ∀ (s : State) a, a.toNat ≤ 62 → P s → P { s with unit := { s.unit with unitAddress := a } } := by
    exact fun _ _ _ h => h
  beginStartUp : ∀ s, P s → P (beginStartUp s) := by exact fun _ h => h
  wires : ∀ (s : State) a l u, P s → P { s with link := { s.link with alive := a, link := l, sendingU := u } } := by
    exact fun _ _ _ _ h => h
  errorsCounted : ∀ p (s : State), P s →
    P { s with link := { s.link with errors := s.link.errors.set p (min (s.link.errors.get p + 1) 65535) } } := by
    exact fun _ _ h => h
  errorsCleared : ∀ s : State, P s → P { s with link := { s.link with errors := ⟨0, 0⟩ } } := by exact fun _ h => h
  upJoined : ∀ (s : State) x, s.link.upstream.length < 4 → P s →
    P { s with link := { s.link with upstream := s.link.upstream ++ [x] } } := by exact fun _ _ _ h => h
  upLeft : ∀ s : State, P s → P { s with link := { s.link with upstream := s.link.upstream.tail } } := by
    exact fun _ h => h
  downJoined : ∀ (s : State) x, s.link.downstream.length < 4 → P s →
    P { s with link := { s.link with downstream := s.link.downstream ++ [x] } } := by exact fun _ _ _ h => h
  downLeft : ∀ s : State, P s → P { s with link := { s.link with downstream := s.link.downstream.tail } } := by
    exact fun _ h => h
  raised : ∀ k s, P s → P (raise k s) := by exact fun _ _ h => h
  counted : ∀ f s, P s → P (withCounters f s) := by exact fun _ _ h => h
  flagsCleared : ∀ x s, P s → P (clearFlags x s) := by exact fun _ _ h => h
  arbiter : ∀ (s : State) a, P s → P { s with arbiter := a } := by exact fun _ _ h => h
  answered : ∀ (s : State) a, s.directives.length < 4 → P s → P { s with directives := s.directives ++ [a] } := by
    exact fun _ _ _ h => h
  answerLeft : ∀ s : State, P s → P { s with directives := s.directives.tail } := by exact fun _ h => h
  noticeLeft : ∀ s : State, P s → P { s with notices := s.notices.tail } := by exact fun _ h => h
  cueLeft : ∀ s : State, P s → P { s with cues := s.cues.tail } := by exact fun _ h => h
  cleanLeft : ∀ (s : State) d, P s → P { s with cleanQueues := s.cleanQueues.modify d List.tail } := by
    exact fun _ _ h => h
  recordLeft : ∀ s : State, P s → P { s with log := s.log.tail } := by exact fun _ h => h
  edited : ∀ (s : State) es, es.Sublist s.map.entries → P s → P (setEntries es s) := by exact fun _ _ _ h => h
  inserted : ∀ c l a b x s e, judgeInsert c l a b x s = .ok e → P s → P (setEntries (insertEntry e s.map.entries) s) := by
    exact fun _ _ _ _ _ _ _ _ h => h
  stager : ∀ (s : State) (x : Stager),
    (s.stager.staging.length = 4096 → s.stager.expected ≤ 128 → x.staging.length = 4096 ∧ x.expected ≤ 128) → P s →
    P { s with stager := x } := by exact fun _ _ _ h => h
  tables : ∀ (s : State) k q, (TablesWhole s → k.length = 4096 ∧ ∀ n, (q.get n).length = 32) → P s →
    P { s with kernel := k, eqSets := q } := by exact fun _ _ _ _ h => h
  store : ∀ (s : State) x, (∀ p ∈ x.profiles, p ∈ s.store.profiles ∨ p = profileInUse s) → P s →
    P { s with store := x } := by exact fun _ _ _ h => h
  applied : ∀ s, P s → P (applyPending s) := by exact fun _ h => h

namespace PartsKeep

variable {P : State → Prop}

/-- The stager with its load state, its installation or its timer changed, and its area and count kept. -/
theorem stagerMarked (h : PartsKeep P) (s : State) (x : Stager) (harea : x.staging = s.stager.staging)
    (hcount : x.expected = s.stager.expected) (hs : P s) : P { s with stager := x } :=
  h.stager s x (fun ha hc => ⟨harea ▸ ha, hcount ▸ hc⟩) hs

theorem installed (h : PartsKeep P) (s : State) (hs : P s) : P (installPending s) := by
  have ht : P (installTables s.stager.install s) := by
    unfold installTables
    split
    · exact hs
    · exact h.tables s s.stager.staging s.eqSets (fun ⟨_, hq, ha, _⟩ => ⟨ha, hq⟩) hs
    · next n _ =>
      refine h.tables s s.kernel (s.eqSets.set n (s.stager.staging.take 32)) (fun ⟨hk, hq, ha, _⟩ => ⟨hk, fun m => ?_⟩) hs
      rw [Quad.get_set]
      split
      · rw [List.length_take, ha]; rfl
      · exact hq m
    · split
      · next p hp => exact h.tables s _ _ (fun hw => whole_of_mem hw (.inl (mem_profiles_of_slot hp))) hs
      · exact hs
  exact h.stagerMarked _ _ rfl rfl ht

theorem marked (h : PartsKeep P) (i : Install) (s : State) (hs : P s) : P (markInstall i s) := by
  have ht : P { s with stager := { s.stager with install := i } } := h.stagerMarked _ _ rfl rfl hs
  unfold markInstall
  dsimp only
  split
  · exact ht
  · exact h.installed _ ht

theorem abandoned (h : PartsKeep P) (s : State) (hs : P s) : P (abandonLoad s) := h.stagerMarked _ _ rfl rfl hs

theorem writeProfile_store (t : Settings) (s : State) : (writeProfile t s).store = s.store :=
  writeProfile_keeps State.store (fun _ _ => rfl) (fun _ _ => rfl) (fun _ _ => rfl) (fun _ _ => rfl) t s

theorem noteFault_store (b : Bool) (s : State) : (noteFault b s).store = s.store := by cases b <;> rfl

theorem faultNoted (h : PartsKeep P) (b : Bool) (s : State) (hs : P s) : P (noteFault b s) := by
  cases b
  · exact hs
  · exact h.raised _ _ hs

theorem autoload (h : PartsKeep P) (s : State) (hs : P s) : P (autoload s) := by
  unfold Machine.autoload finishAutoload
  dsimp only
  have hmem := autoloadChoice_mem s.store
  generalize autoloadChoice s.store = c at hmem ⊢
  have hw := h.written c.1 _ ((noteFault_store c.2.2 s).symm ▸ hmem) (h.faultNoted c.2.2 s hs)
  have hstore : (writeProfile c.1.settings (noteFault c.2.2 s)).store = s.store :=
    (writeProfile_store _ _).trans (noteFault_store _ _)
  have hx := h.tables _ c.1.kernel c.1.eqSets (fun ht => whole_of_mem ht (hstore ▸ hmem)) hw
  refine h.applied _ (h.unit _ _ ?_ ?_ hx) <;> rfl

/-- What a command needs beside the changes of single parts: what the ends of a pass, a RAW parcel, a transport state and
the engine reset keep. -/
theorem commandKeeps (h : PartsKeep P) (hended : ∀ s, P s → P (endIfRunning s))
    (hraw : ∀ (x : BitVec 32) (fs : List RawFrame) s, fs.length = 16 → P s → P (takeRaw x.toNat fs s))
    (htransport : ∀ c s, P s → P (takeTransport c s)) (hengine : ∀ s, P s → P (engineReset s)) : CommandKeeps P where
  settled s hs := h.levels s _ hs
  straps x s hs := h.unit s _ rfl rfl hs
  resetLine b s hs := h.unit s _ rfl rfl hs
  resetBlocks := h.resetBlocks
  beginStartUp := h.beginStartUp
  damaged x s hs := h.store s _ (fun p hp => .inl (damageSlots_profiles x _ p hp)) hs
  autoload := h.autoload
  alive p b s hs := h.wires s _ s.link.link s.link.sendingU hs
  linked p x s hs := h.wires s s.link.alive _ s.link.sendingU hs
  raised := h.raised
  counted := h.counted
  cut p s hs := by
    cases p with
    | U => exact h.wires s s.link.alive s.link.link none hs
    | D => exact h.arbiter s _ hs
  ended := hended
  dropped p t s hs := dropParcel_preserves P h.counted h.raised h.errorsCounted p t s hs
  raw := hraw
  transport := htransport
  down x s hs := by
    unfold offerDownstream
    split
    · next hroom => exact h.downJoined s x hroom hs
    · exact h.counted _ _ hs
  up x s hs := by
    unfold offerUpstream
    split
    · next hroom => exact h.upJoined s x hroom hs
    · exact h.counted _ _ hs
  startUp s hs := by
    unfold startUpstream
    split
    · exact h.wires s s.link.alive s.link.link _ hs
    · exact hs
  completeUp s hs := by
    unfold completeUpstream
    split
    · exact h.upLeft _ (h.wires s s.link.alive s.link.link none hs)
    · exact hs
  choice s hs := by
    unfold makeChoice
    split
    · split
      · exact h.arbiter s _ hs
      · exact hs
    · exact hs
  removed x a s hs := by
    have ha := h.arbiter s a hs
    cases x with
    | clean d => exact h.cleanLeft _ d ha
    | directive => exact h.answerLeft _ ha
    | notice => exact h.noticeLeft _ ha
    | cue => exact h.cueLeft _ ha
    | downstream => exact h.downLeft _ ha
    | damage => exact h.pause _ _ (h.recordLeft _ ha)
  answered a s hroom hs := h.answered s a hroom hs
  address a s hs := by
    unfold replySetAddress
    split
    · next ha =>
      refine h.address s _ ?_ hs
      rw [addressIn, BitVec.toNat_setWidth]
      omega
    · exact hs
  setting i v s hs := by
    unfold replyWriteSetting
    split
    · exact hs
    · next n _ =>
      split
      · next hj => exact h.stored n _ s (judgeSetting_allowed (settingKind_range n) hj) hs
      · exact hs
  insert c l a b x s hs := by
    unfold replyMapInsert
    split
    · exact hs
    · next hj => exact h.inserted c l a b x s _ hj hs
  delete i s hs := by
    unfold replyMapDelete
    dsimp only
    split
    · exact hs
    · split
      · exact hs
      · split
        · exact hs
        · exact h.edited s _ List.filter_sublist hs
  clear s hs := h.edited s _ List.filter_sublist hs
  loadBegin t s hs := by
    unfold replyLoadBegin
    split
    · exact hs
    · next c _ =>
      split
      · exact hs
      · refine h.stager s _ (fun _ _ => ⟨List.length_replicate, ?_⟩) hs
        cases c <;> simp [chunksOf]
  loadChunk i ws s hlen hs := by
    unfold replyLoadChunk
    dsimp only
    split
    · exact hs
    · split
      · exact hs
      · next hin =>
        split
        · exact hs
        · refine h.stager s _ (fun ha hc => ⟨?_, hc⟩) hs
          simp only [putWords, List.length_append, List.length_take, List.length_drop, List.length_map]
          omega
  loadEnd x s hs := by
    unfold replyLoadEnd
    dsimp only
    split
    · exact hs
    · split
      · exact h.raised _ _ (h.abandoned s hs)
      · exact h.marked _ _ (h.abandoned s hs)
  abandoned := h.abandoned
  ack x s hs := by
    unfold replyAckEvents
    dsimp only
    split
    · exact h.errorsCleared _ (h.flagsCleared _ s hs)
    · exact h.flagsCleared _ s hs
  save n m s hs := by
    unfold replyProfileSave
    split
    · exact hs
    · split
      · exact hs
      · next i _ => exact h.store s _ (saving_profiles i _ _ s) hs
  erase n s hs := by
    unfold replyProfileErase
    split
    · exact hs
    · next i _ => exact h.store s _ (fun p hp => .inl (erasing_profiles i s p hp)) hs
  recalled n s hs := by
    unfold replyProfileRecall
    split
    · exact hs
    · split
      · exact hs
      · split
        · exact hs
        · split
          · exact hs
          · next p hp => exact h.marked _ _ (h.written p s (.inl (mem_profiles_of_slot hp)) hs)
  engine := hengine
  completed s hs := h.store s _ (fun p hp => .inl (completeStore_profiles _ p hp)) hs
  duty s hs := by
    unfold takeUpDuty
    split
    · exact h.lineDuty s hs
    · exact hs
  timer f s hs := h.stagerMarked s _ rfl rfl hs
  elapsed s hs := h.store s _ (fun p hp => .inl hp) hs
  startUpMs s _ hs := h.unit s _ rfl rfl hs

end PartsKeep

end Sys2Proof.Machine
end

section
/-! The same for the audio stream: the changes that a RAW parcel, a pass end or the engine reset makes to one part of the
state, and what follows for a whole step. -/

namespace Sys2Proof.Machine

/-- The tracker of a side as its update at a boundary leaves it (R42, R58). -/
def updatedTracker (d : Side) (s : State) : Tracker :=
  { (trackerJudged d s (s.trackers.get d)).next with
    skewInForce := skewAt (skewEntry s d) (s.settings.skewMode.get d) (s.settings.biasHz.get d) (s.settings.skewCycles.get d)
      (trackerJudged d s (s.trackers.get d)).next.skewAverage }

/-- A property closed under every change the audio stream makes to one part of the state, for properties that the lane
history and raw intake do not bear on. A change of a part the property does not speak of keeps it as it is. -/
structure StreamParts (P : State → Prop) : Prop extends PartsKeep P where
  history : ∀ (s : State) x, P s → P { s with history := x } := by exact fun _ _ h => h
  intake : ∀ (s : State) x, P s → P { s with intake := x } := by exact fun _ _ h => h
  detectors : ∀ (s : State) x, P s → P { s with detectors := x } := by exact fun _ _ h => h
  updated : ∀ d s, sideActive s d = true → P s → P { s with trackers := s.trackers.set d (updatedTracker d s) } := by
    exact fun _ _ _ h => h
  trimmed : ∀ (s : State) c sum b duty, (s.lines.trimCount < 256 → c < 256) → (s.lines.duty ≤ 255 → duty ≤ 255) → P s →
    P { s with lines := { s.lines with trimCount := c, trimSum := sum, allLocked := b, duty := duty } } := by
    exact fun _ _ _ _ _ _ _ h => h
  forced : ∀ d e s, P s → P (withTracker d (forceTracker e) s) := by exact fun _ _ _ h => h
  unforced : ∀ d e s, P s → P (withTracker d (unforceTracker e) s) := by exact fun _ _ _ h => h
  trackerStarted : ∀ (s : State) d b, P s → P { s with trackers := s.trackers.modify d (startTracker b) } := by
    exact fun _ _ _ h => h
  trackersEnded : ∀ s : State, P s → P { s with trackers := ⟨endTracker s.trackers.a, endTracker s.trackers.b⟩ } := by
    exact fun _ h => h
  resamplers : ∀ (s : State) x, P s → P { s with resamplers := x } := by exact fun _ _ h => h
  repairs : ∀ (s : State) x, P s → P { s with repairs := x } := by exact fun _ _ h => h
  walkers : ∀ (s : State) a b, P s → P { s with map := { s.map with intakeWalker := a, sideWalker := b } } := by
    exact fun _ _ _ h => h
  freeCount : ∀ (s : State) n, P s → P { s with freeCount := n } := by exact fun _ _ h => h
  logged : ∀ (s : State) r, s.log.length < 64 → P s → P { s with log := s.log ++ [r] } := by exact fun _ _ _ h => h
  cued : ∀ (s : State) c, s.cues.length < 16 → P s → P { s with cues := s.cues ++ [c] } := by exact fun _ _ _ h => h
  cuesCut : ∀ (s : State) n, P s → P { s with cues := s.cues.take n } := by exact fun _ _ h => h
  laneTaken : ∀ l v r s, P s → P { s with eqLanes := s.eqLanes.modify l (shiftLane v r) } := by exact fun _ _ _ _ h => h
  laneStarted : ∀ (s : State) l, P s → P { s with eqLanes := s.eqLanes.set l EqLane.reset } := by exact fun _ _ h => h
  sideTaken : ∀ (s : State) d n r, (s.eqSides.get d).fill ≤ n → ((s.eqSides.get d).fill ≤ 31 → n ≤ 31) → P s →
    P { s with eqSides := s.eqSides.set d { s.eqSides.get d with
          fill := n, frames := (r :: (s.eqSides.get d).frames).take 31 } } := by exact fun _ _ _ _ _ _ h => h
  sideFlushing : ∀ d b s, P s → P (setFlushing d b s) := by exact fun _ _ _ h => h
  sideStarted : ∀ (s : State) d, P s → P { s with eqSides := s.eqSides.set d EqSide.reset } := by exact fun _ _ h => h
  partialStarted : ∀ (s : State) d, P s → P { s with partials := s.partials.set d [] } := by exact fun _ _ h => h
  partialJoined : ∀ (s : State) d f, (s.partials.get d).length + 1 < 16 → P s →
    P { s with partials := s.partials.modify d (· ++ [f]) } := by exact fun _ _ _ _ h => h
  queued : ∀ (s : State) d p, (s.cleanQueues.get d).length < 4 → P s →
    P { s with cleanQueues := s.cleanQueues.modify d (· ++ [p]) } := by exact fun _ _ _ _ h => h
  queueCut : ∀ (s : State) d n, P s → P { s with cleanQueues := s.cleanQueues.set d ((s.cleanQueues.get d).take n) } := by
    exact fun _ _ _ h => h

namespace StreamParts

variable {P : State → Prop}

theorem restarted (h : StreamParts P) (s : State) (hs : P s) : P (restartTrim s) :=
  h.trimmed s 0 0 true s.lines.duty (fun _ => by omega) id hs

theorem dutyReset (h : StreamParts P) (s : State) (hs : P s) : P { s with lines := { s.lines with duty := 128 } } :=
  h.trimmed s s.lines.trimCount s.lines.trimSum s.lines.allLocked 128 id (fun _ => by omega) hs

theorem trim (h : StreamParts P) (d : Side) (s : State) (hs : P s) : P (trimCount d s) := by
  unfold trimCount
  split
  · dsimp only
    split
    · refine h.trimmed s _ _ _ _ (fun _ => by omega) (fun hd => ?_) hs
      split_ifs <;> omega
    · exact h.trimmed s _ _ _ s.lines.duty (fun _ => by omega) id hs
  · exact hs

theorem tracked (h : StreamParts P) (d : Side) (s : State) (hs : P s) : P (updateTracker d s) := by
  unfold updateTracker
  split
  · next ha =>
    have hc : P (countUpdate d (trackerJudged d s (s.trackers.get d))
        { s with trackers := s.trackers.set d (updatedTracker d s) }) := h.counted _ _ (h.updated d s ha hs)
    dsimp only
    apply h.trim
    split
    · exact h.raised _ _ hc
    · exact hc
  · exact hs

theorem appended (h : StreamParts P) (r : DamageRecord) (s : State) (hs : P s) : P (appendDamage r s) := by
  unfold appendDamage
  split
  · exact h.raised _ _ (h.counted _ _ hs)
  · next hroom =>
    have hl := h.logged s r (by omega) hs
    dsimp only
    split
    · exact h.raised _ _ (h.pause _ _ hl)
    · exact hl

theorem cueAppended (h : StreamParts P) (c : Cue) (s : State) (hs : P s) : P (appendCue c s) := by
  unfold appendCue
  split
  · next hroom => exact h.cued s c hroom hs
  · exact h.counted _ _ hs

theorem cuesEmptied (h : StreamParts P) (s : State) (hs : P s) : P (emptyCues s) := by
  unfold emptyCues
  split
  · split
    · exact h.cuesCut s 1 hs
    · exact h.cuesCut s 0 hs
  · exact h.cuesCut s 0 hs

theorem cleanQueued (h : StreamParts P) (d : Side) (p : CleanParcel) (s : State) (hs : P s) : P (queueClean d p s) := by
  unfold queueClean
  split
  · next hroom => exact h.queued s d p hroom.2 hs
  · exact h.counted _ _ hs

/-- A frame that joins a partial parcel either leaves it short of 16 frames or completes it, and then none is left (R138,
R139). -/
theorem assembled (h : StreamParts P) (d : Side) (f : CleanFrame) (s : State) (hs : P s) : P (assemble d f s) := by
  have hget : (s.partials.modify d (· ++ [f])).get d = s.partials.get d ++ [f] := by
    rw [PerSide.get_modify, if_pos rfl]
  have hset : (s.partials.modify d (· ++ [f])).set d [] = s.partials.set d [] :=
    PerSide.ext_get fun e => by
      rw [PerSide.get_set, PerSide.get_set]
      split
      · rfl
      · next hne => rw [PerSide.get_modify, if_neg hne]
  unfold assemble completePartial
  dsimp only
  rw [hget]
  split
  · split
    · next he => simp at he
    · rw [hset]
      exact h.cleanQueued d _ _ (h.partialStarted s d hs)
  · next hshort =>
    refine h.partialJoined s d f ?_ hs
    rw [List.length_append, List.length_singleton] at hshort
    omega

theorem cleanCut (h : StreamParts P) (s : State) (d : Side) (hs : P s) :
    P { s with cleanQueues := s.cleanQueues.set d (keptClean d s) } := by
  unfold keptClean
  split
  · split
    · exact h.queueCut s d 1 hs
    · exact h.queueCut s d 0 hs
  · exact h.queueCut s d 0 hs

theorem streamKeeps (h : StreamParts P) : StreamKeeps P where
  counted := h.counted
  raised := h.raised
  history := h.history
  intake := h.intake
  detectors := h.detectors
  updated := h.tracked
  forced := h.forced
  unforced := h.unforced
  trackerStarted := h.trackerStarted
  trackersEnded := h.trackersEnded
  resamplers := h.resamplers
  repairs := h.repairs
  walkers := h.walkers
  freeCount := h.freeCount
  restarted := h.restarted
  appended := h.appended
  cued := h.cueAppended
  laneTaken := h.laneTaken
  laneStarted := h.laneStarted
  sideFilled s d r hroom hs := h.sideTaken s d _ r (by omega) (fun _ => by omega) hs
  sideShifted s d r hs := h.sideTaken s d _ r (Nat.le_refl _) id hs
  sideFlushing := h.sideFlushing
  sideStarted := h.sideStarted
  partialStarted := h.partialStarted
  assembled := h.assembled
  queued := h.cleanQueued
  queueCut := h.cleanCut
  installed := h.installed

theorem commandKeeps (h : StreamParts P) : CommandKeeps P :=
  h.toPartsKeep.commandKeeps h.streamKeeps.endedIfRunning (fun _ _ _ _ hs => h.streamKeeps.raw _ _ _ hs) h.streamKeeps.transport
    (h.streamKeeps.engine h.abandoned h.dutyReset h.cuesEmptied)

/-- Every step keeps the property, when taking a command from the queue does. -/
theorem step_keeps (h : StreamParts P) (hq : ∀ (s : State) q, P s → P { s with pending := q } := by exact fun _ _ h => h)
    (s t : State) (hs : P s) (e : step s = .next t) : P t :=
  h.commandKeeps.step_preserves hq s t hs e

end StreamParts

end Sys2Proof.Machine
end

section
/-! The settings table as a function of the setting ids: what a stored value is read back as, and the ranges of 9.4 setting
by setting. -/

namespace Sys2Proof.Machine

/-! ### Setting by setting (9.4) -/

theorem settingRules_eq_map : settingRules = allSettings.map settingKind := rfl

theorem mem_allSettings (n : SettingId) : n ∈ allSettings := by
  cases n with
  | laneEnable l | indicator l => fin_cases l <;> decide
  | direction d | biasHz d | reference d | skewMode d | skewCycles d | threshold d | twin d | repairMode d | eqSet d | gain d =>
    cases d <;> decide
  | _ => decide

/-- A table is within the ranges of 9.4 exactly when each setting's value is. -/
theorem allowed_iff (t : Settings) : t.allowed ↔ ∀ n, valueAllowed (settingKind n) (settingValue t n) := by
  unfold Settings.allowed
  rw [settingRules_eq_map, settingValues_eq_map, List.forall₂_map_left_iff, List.forall₂_map_right_iff, List.forall₂_same]
  exact ⟨fun h n => h n (mem_allSettings n), fun h n _ => h n⟩

/-! ### A stored value read back (12.5) -/

theorem settingValue_putSetting_same (t : Settings) (n : SettingId) (v : Int) (h : valueAllowed (settingKind n) v) :
    settingValue (putSetting t n v) n = v := by
  have htwo : 0 ≤ v → v < 2 → v = 0 ∨ v = 1 := by omega
  cases n with
  | laneEnable _ | direction _ | twin _ | skewMode _ | pauseOnLogHigh | trimEnable | trimSide =>
    obtain rfl | rfl := htwo h.1 h.2 <;> simp [settingValue, putSetting] <;> rfl
  | reference d =>
    obtain rfl | rfl | rfl : v = 0 ∨ v = 1 ∨ v = 2 := by have := h.1; have := h.2; omega
    all_goals
      simp [settingValue, putSetting]
      rfl
  | repairMode d =>
    obtain rfl | rfl | rfl | rfl : v = 0 ∨ v = 1 ∨ v = 2 ∨ v = 3 := by have := h.1; have := h.2; omega
    all_goals
      simp [settingValue, putSetting]
      rfl
  | eqSet d =>
    obtain rfl | rfl | rfl | rfl : v = 0 ∨ v = 1 ∨ v = 2 ∨ v = 3 := by have := h.1; have := h.2; omega
    all_goals
      simp [settingValue, putSetting]
      rfl
  | indicator i =>
    obtain rfl | rfl | rfl | rfl | rfl | rfl | rfl | rfl | rfl | rfl : v = 0 ∨ v = 1 ∨ v = 2 ∨ v = 3 ∨ v = 4 ∨ v = 5 ∨ v = 6 ∨
        v = 7 ∨ v = 8 ∨ v = 9 := by have := h.1; have := h.2; omega
    all_goals
      simp [settingValue, putSetting]
      rfl
  | window =>
    obtain rfl | rfl | rfl | rfl := h <;> rfl
  | speedRange =>
    obtain rfl | rfl | rfl | rfl := h <;> rfl
  | skewCycles d => simp [settingValue, putSetting]
  | noticeMask =>
    have := h.1
    have := h.2
    simp [settingValue, putSetting]
    omega
  | _ =>
    have := h.1
    simp [settingValue, putSetting]
    omega

/-- Two settings stand in different places of the table: in different fields, or at different lanes or sides of one. -/
theorem settingValue_putSetting_of_ne (t : Settings) {m n : SettingId} (v : Int) (h : m ≠ n) :
    settingValue (putSetting t n v) m = settingValue t m := by
  cases n <;> cases m <;> simp_all [settingValue, putSetting, PerSide.get_set, Quad.get_set]

theorem allowed_putSetting {t : Settings} (ht : t.allowed) (n : SettingId) {v : Int} (hv : valueAllowed (settingKind n) v) :
    (putSetting t n v).allowed := by
  refine (allowed_iff _).mpr fun m => ?_
  by_cases e : m = n
  · subst e
    rwa [settingValue_putSetting_same t m v hv]
  · rw [settingValue_putSetting_of_ne t v e]
    exact (allowed_iff t).mp ht m

end Sys2Proof.Machine
end

section
/-! The invariants that each speak of few parts of the state: the settings and the unit's values (9.4, R9, R11, R188, R189),
the tables and the delays (R75, R127, R131, R169, R178), the queues (R14 to R159) and the map (R104 to R111). -/

namespace Sys2Proof.Machine

/-! ### The settings (9.4) -/

theorem writeEffect_settings (n : SettingId) (s : State) : (writeEffect n s).settings = s.settings := by
  cases n with
  | linkThreshold =>
    unfold writeEffect compareLinkErrors
    dsimp only
    split <;> rfl
  | _ => rfl

theorem storeSetting_settings (n : SettingId) (v : Int) (s : State) :
    (storeSetting n v s).settings = putSetting s.settings n v := writeEffect_settings n _

theorem storeSetting_store (n : SettingId) (v : Int) (s : State) : (storeSetting n v s).store = s.store :=
  storeSetting_keeps State.store (fun _ _ => rfl) (fun _ _ => rfl) (fun _ _ => rfl) (fun _ _ => rfl) n v s

theorem settingsInRange_stored (n : SettingId) (v : Int) (s : State) (hv : valueAllowed (settingKind n) v)
    (h : SettingsInRange s) : SettingsInRange (storeSetting n v s) :=
  ⟨storeSetting_settings n v s ▸ allowed_putSetting h.1 n hv, storeSetting_store n v s ▸ h.2⟩

theorem factoryProfile_allowed : factoryProfile.settings.allowed :=
  (allowed_iff _).mpr fun n => by
    cases n with
    | window => exact .inr (.inr (.inl rfl))
    | speedRange => exact .inr (.inl rfl)
    | laneEnable l | indicator l => fin_cases l <;> exact ⟨by decide, by decide⟩
    | direction d | biasHz d | reference d | skewMode d | skewCycles d | threshold d | twin d | repairMode d | eqSet d
      | gain d => cases d <;> exact ⟨by decide, by decide⟩
    | _ => exact ⟨by decide, by decide⟩

/-- Writing a profile whose settings are in range keeps a property that every in-range write keeps (R182, R184). -/
theorem writeProfile_allowed {P : State → Prop} (hstored : ∀ n v s, valueAllowed (settingKind n) v → P s → P (storeSetting n v s))
    {t : Settings} (ht : t.allowed) (s : State) (hs : P s) : P (writeProfile t s) :=
  foldl_preserves P _ (fun u n hu => hstored n _ u ((allowed_iff t).mp ht n) hu) _ _ hs

theorem allowed_of_held {s : State} {p : Profile} (h : SettingsInRange s) (hp : p ∈ s.store.profiles ∨ p = factoryProfile) :
    p.settings.allowed := by
  obtain hp | rfl := hp
  · exact h.2 p hp
  · exact factoryProfile_allowed

theorem settingsInRange_kept : StreamParts SettingsInRange where
  resetBlocks _ _ s h := ⟨factoryProfile_allowed, fun p hp => h.2 p (abortStore_profiles s.store p hp)⟩
  stored := settingsInRange_stored
  written p s hp h := writeProfile_allowed settingsInRange_stored (allowed_of_held h hp) s h
  store s x hx h := ⟨h.1, fun p hp => by
    obtain hp | rfl := hx p hp
    · exact h.2 p hp
    · exact h.1⟩

/-! ### The unit's values (R9, R11, R188, R189) -/

theorem valuesInRange_writes : WritesKeep ValuesInRange where
  restarted _ := fun ⟨ha, hs, hu, hd, _, hdu, hl⟩ => ⟨ha, hs, hu, hd, Nat.zero_lt_succ _, hdu, hl⟩

theorem valuesInRange_kept : StreamParts ValuesInRange where
  resetBlocks _ _ _ := fun ⟨ha, hs, _⟩ => 
    ⟨ha, hs, Nat.zero_le _, Nat.zero_le _, Nat.zero_lt_succ _, Nat.le_of_ble_eq_true rfl, Nat.zero_le _⟩
  stored n v s _ := valuesInRange_writes.stored n v s
  written p s _ := valuesInRange_writes.written p.settings s
  lineDuty _ := fun ⟨ha, hs, hu, hd, ht, hdu, _⟩ => ⟨ha, hs, hu, hd, ht, hdu, hdu⟩
  unit s x ha hs := fun ⟨ha', hs', hr⟩ => ⟨ha ▸ ha', hs ▸ hs', hr⟩
  address s a ha := fun ⟨_, hr⟩ => ⟨ha, hr⟩
  beginStartUp s := fun ⟨_, _, hu, hd, ht, hdu, _⟩ => by
    have hpin : (s.unit.straps.setWidth 6).toNat ≤ 7 := by
      rw [BitVec.toNat_setWidth]
      omega
    exact ⟨by show (s.unit.straps.setWidth 6).toNat ≤ 62; omega, hpin, hu, hd, ht, hdu, hdu⟩
  errorsCounted p s := fun ⟨ha, hs, hu, hd, hr⟩ => by
    cases p with
    | U => exact ⟨ha, hs, Nat.min_le_right _ _, hd, hr⟩
    | D => exact ⟨ha, hs, hu, Nat.min_le_right _ _, hr⟩
  errorsCleared s := fun ⟨ha, hs, _, _, hr⟩ => ⟨ha, hs, Nat.zero_le _, Nat.zero_le _, hr⟩
  trimmed s c sum b duty hc hd := fun ⟨ha, hs, hu, hd', ht, hdu, hl⟩ => ⟨ha, hs, hu, hd', hc ht, hd hdu, hl⟩

/-- Settles O59: every change of a part of the state keeps the settings and the unit's values in their ranges. -/
theorem stepsKeepSettingsAndValuesInRange : Obligations.StepsKeepSettingsAndValuesInRange := by
  unfold Obligations.StepsKeepSettingsAndValuesInRange
  exact ⟨settingsInRange_kept.step_keeps, valuesInRange_kept.step_keeps⟩

/-! ### The tables (R75, R131, R169, R178) -/

theorem tablesWhole_writes : WritesKeep TablesWhole where

theorem tablesWhole_kept : StreamParts TablesWhole where
  resetBlocks _ _ s := fun ⟨_, _, _, _, hp⟩ =>
    ⟨factoryProfile_whole.1, factoryProfile_whole.2, List.length_replicate, Nat.zero_le _,
      fun p h => hp p (abortStore_profiles s.store p h)⟩
  stored n v s _ := tablesWhole_writes.stored n v s
  written p s _ := tablesWhole_writes.written p.settings s
  stager s x hx := fun ⟨hk, hq, ha, hc, hp⟩ => ⟨hk, hq, (hx ha hc).1, (hx ha hc).2, hp⟩
  tables s k q hkq h := ⟨(hkq h).1, (hkq h).2, h.2.2⟩
  store s x hx := fun ⟨hk, hq, ha, hc, hp⟩ => ⟨hk, hq, ha, hc, fun p h => by
    obtain h | rfl := hx p h
    · exact hp p h
    · exact ⟨hk, hq⟩⟩

/-! ### The delays (R127, R128) -/

theorem delaysWhole_reset : DelaysWhole State.reset :=
  ⟨fun l => by rw [State.reset, Quad.get_fill]; decide, fun d => by rw [State.reset, PerSide.get_both]; decide⟩

theorem delaysWhole_writes : WritesKeep DelaysWhole where

theorem delaysWhole_kept : StreamParts DelaysWhole where
  resetBlocks _ _ _ _ := delaysWhole_reset
  stored n v s _ := delaysWhole_writes.stored n v s
  written p s _ := delaysWhole_writes.written p.settings s
  laneTaken l v r s := fun ⟨hl, hd⟩ => ⟨fun m => by
    obtain ⟨hline, hrecords⟩ := hl m
    dsimp only
    rw [Quad.get_modify]
    split
    · simp [shiftLane, hline, hrecords]
    · exact ⟨hline, hrecords⟩, hd⟩
  laneStarted s l := fun ⟨hl, hd⟩ => ⟨fun m => by
    dsimp only
    rw [Quad.get_set]
    split
    · decide
    · exact hl m, hd⟩
  sideTaken s d n r _ hn := fun ⟨hl, hd⟩ => ⟨hl, fun e => by
    obtain ⟨hframes, hfill⟩ := hd d
    dsimp only
    rw [PerSide.get_set]
    split
    · simp [hframes, hn hfill]
    · exact hd e⟩
  sideFlushing d b s := fun ⟨hl, hd⟩ => ⟨hl, fun e => by
    rw [setFlushing, PerSide.get_modify]
    split
    · exact hd e
    · exact hd e⟩
  sideStarted s d := fun ⟨hl, hd⟩ => ⟨hl, fun e => by
    dsimp only
    rw [PerSide.get_set]
    split
    · decide
    · exact hd e⟩

/-! ### The queues (R14, R15, R138, R140, R142, R146, R147, R149, R159) -/

theorem queuesBounded_reset : QueuesBounded State.reset :=
  ⟨by decide, by decide, fun d => by cases d <;> decide, fun d => by cases d <;> decide, by decide, by decide, by decide,
    by decide⟩

theorem queuesBounded_raised (k : EventKind) (s : State) (h : QueuesBounded s) : QueuesBounded (raise k s) := by
  obtain ⟨hu, hd, hc, hp, hl, hn, hq, ha⟩ := h
  refine ⟨hu, hd, hc, hp, hl, ?_, hq, ha⟩
  unfold raise
  dsimp only
  split
  · next hfree =>
    rw [List.map_append, List.map_singleton, List.nodup_append]
    refine ⟨hn, List.nodup_singleton _, fun a hin b hb => ?_⟩
    rw [List.mem_singleton.mp hb]
    rintro rfl
    obtain ⟨n, hn, rfl⟩ := List.mem_map.mp hin
    have : (s.notices.any fun m => decide (m.kind = n.kind)) = true := List.any_eq_true.mpr ⟨n, hn, decide_eq_true rfl⟩
    simp [this] at hfree
  · exact hn

theorem queuesBounded_writes : WritesKeep QueuesBounded where
  raised := queuesBounded_raised

theorem queuesBounded_kept : StreamParts QueuesBounded where
  resetBlocks _ _ _ _ := queuesBounded_reset
  stored n v s _ := queuesBounded_writes.stored n v s
  written p s _ := queuesBounded_writes.written p.settings s
  raised := queuesBounded_raised
  upJoined s x hroom := fun ⟨_, hr⟩ => ⟨by simpa using hroom, hr⟩
  upLeft s := fun ⟨hu, hr⟩ => ⟨by simpa using Nat.le_succ_of_le hu, hr⟩
  downJoined s x hroom := fun ⟨hu, _, hr⟩ => ⟨hu, by simpa using hroom, hr⟩
  downLeft s := fun ⟨hu, hd, hr⟩ => ⟨hu, by simpa using Nat.le_succ_of_le hd, hr⟩
  answered s a hroom := fun ⟨hu, hd, hc, hp, hl, hn, hq, _⟩ => ⟨hu, hd, hc, hp, hl, hn, hq, by simpa using hroom⟩
  answerLeft s := fun ⟨hu, hd, hc, hp, hl, hn, hq, ha⟩ => ⟨hu, hd, hc, hp, hl, hn, hq, by simpa using Nat.le_succ_of_le ha⟩
  noticeLeft s := fun ⟨hu, hd, hc, hp, hl, hn, hr⟩ => ⟨hu, hd, hc, hp, hl, hn.sublist ((List.tail_sublist _).map _), hr⟩
  cueLeft s := fun ⟨hu, hd, hc, hp, hl, hn, hq, ha⟩ => ⟨hu, hd, hc, hp, hl, hn, by simpa using Nat.le_succ_of_le hq, ha⟩
  cleanLeft s d := fun ⟨hu, hd, hc, hr⟩ => ⟨hu, hd, fun e => by
    have := hc e
    dsimp only
    rw [PerSide.get_modify]
    split
    · rw [List.length_tail]; omega
    · exact this, hr⟩
  recordLeft s := fun ⟨hu, hd, hc, hp, hl, hr⟩ => ⟨hu, hd, hc, hp, by simpa using Nat.le_succ_of_le hl, hr⟩
  logged s r hroom := fun ⟨hu, hd, hc, hp, _, hr⟩ => ⟨hu, hd, hc, hp, by simpa using hroom, hr⟩
  cued s c hroom := fun ⟨hu, hd, hc, hp, hl, hn, _, ha⟩ => ⟨hu, hd, hc, hp, hl, hn, by simpa using hroom, ha⟩
  cuesCut s n := fun ⟨hu, hd, hc, hp, hl, hn, hq, ha⟩ => ⟨hu, hd, hc, hp, hl, hn, by rw [List.length_take]; omega, ha⟩
  partialStarted s d := fun ⟨hu, hd, hc, hp, hr⟩ => ⟨hu, hd, hc, fun e => by
    dsimp only
    rw [PerSide.get_set]
    split
    · decide
    · exact hp e, hr⟩
  partialJoined s d f hroom := fun ⟨hu, hd, hc, hp, hr⟩ => ⟨hu, hd, hc, fun e => by
    dsimp only
    rw [PerSide.get_modify]
    split
    · next he =>
      rw [he]
      simpa using hroom
    · exact hp e, hr⟩
  queued s d p hroom := fun ⟨hu, hd, hc, hr⟩ => ⟨hu, hd, fun e => by
    dsimp only
    rw [PerSide.get_modify]
    split
    · next he =>
      rw [he]
      simpa using hroom
    · exact hc e, hr⟩
  queueCut s d n := fun ⟨hu, hd, hc, hr⟩ => ⟨hu, hd, fun e => by
    have := hc d
    dsimp only
    rw [PerSide.get_set]
    split
    · rw [List.length_take]; omega
    · exact hc e, hr⟩

/-- Settles O55: a queue grows only where it has room, and a notice joins only where none of its kind waits. -/
theorem stepsKeepTheQueuesBounded : Obligations.StepsKeepTheQueuesBounded := by
  unfold Obligations.StepsKeepTheQueuesBounded
  exact queuesBounded_kept.step_keeps

end Sys2Proof.Machine
end

section
/-! The lane history stays canonical (R30): pass ends leave it, a pass start clears it, and a parcel writes entries one at a
time. -/

namespace Sys2Proof.Machine

/-! ### Taking a RAW parcel, its parts given -/

/-- What a RAW parcel keeps, when the parts it is made of keep it: the counters, the events, the flushed end, the pass start,
the parcel and the filled gap (R19 to R27). -/
theorem takeRaw_preserves (P : State → Prop) (hc : ∀ f s, P s → P (withCounters f s)) (hr : ∀ k s, P s → P (raise k s))
    (he : ∀ s, P s → P (flushedEnd s)) (hs : ∀ p s, P s → P (passStart p s)) (ha : ∀ p fs s, P s → P (admitParcel p fs s))
    (hf : ∀ p n s, P s → P (fillGap p n s)) (p : Nat) (fs : List RawFrame) (s : State) (h : P s) : P (takeRaw p fs s) := by
  have hn : ∀ s, P s → P (noteBreak s) := fun s h => hr _ _ (hc _ _ h)
  have hb : P (breakWith p fs s) := ha _ _ _ (hs _ _ (hn _ (he _ h)))
  unfold takeRaw
  split
  · exact hc _ _ h
  · split
    · unfold endIfRunning
      split
      · exact he _ (hn _ h)
      · exact hn _ h
    · split
      · unfold continueWith
        split
        · exact hb
        · split
          · exact ha _ _ _ h
          · split
            · exact ha _ _ _ (hf _ _ _ h)
            · exact hb
      · exact ha _ _ _ (hs _ _ h)

/-! ### The history (R30) -/

theorem endKeeps_history : EndKeeps State.history where
  lanes _ _ := rfl
  sides _ _ := rfl
  partials _ _ := rfl
  queues _ _ := rfl
  counters _ _ := rfl
  raised _ _ := rfl
  detectors _ _ := rfl
  appended := appendDamage_history
  trackers _ _ := rfl
  stopped _ := rfl
  closed _ := rfl
  tables _ _ _ _ := rfl

/-- A pass start clears the history of every lane (R21). -/
theorem passStart_history (p : Nat) (s : State) : (passStart p s).history = Quad.fill [] :=
  foldl_keeps State.history _ (startSide_keeps ⟨endKeeps_history.toEqKeeps, fun _ _ => rfl, fun _ _ => rfl, fun _ _ => rfl,
    fun _ _ _ => rfl, fun _ _ _ => rfl⟩ (fun _ _ => rfl) (fun _ _ => rfl) p) _
    (withIntakeWalker (intakeSeek (beginPass p s).map.entries p) (beginPass p s))

theorem passStart_wf (p : Nat) (s : State) : HistoryCanonical (passStart p s) := by
  unfold HistoryCanonical
  rw [passStart_history]
  exact cleared_wf

theorem admitParcel_wf (p : Nat) (fs : List RawFrame) (s : State) (h : HistoryCanonical s) :
    HistoryCanonical (admitParcel p fs s) :=
  writeParcel_wf p (fs.map entriesOfFrame) (withCounters _ s) h

theorem engineReset_history (s : State) : (engineReset s).history = s.history := by
  have ha : (abandonForReset (endForReset s)).history = (endForReset s).history := by
    unfold abandonForReset
    split <;> rfl
  exact ha.trans (endForReset_keeps endKeeps_history s)

theorem fillGap_wf (p n : Nat) (s : State) (h : HistoryCanonical s) : HistoryCanonical (fillGap p n s) := by
  suffices hf : HistoryCanonical (fillParcels p n s) from hf
  induction n generalizing p s with
  | zero => exact h
  | succ n ih => exact ih _ _ (writeParcel_wf _ _ _ h)

theorem takeTransport_history (c : Nat) (s : State) : (takeTransport c s).history = s.history := by
  unfold takeTransport
  split
  · rfl
  · dsimp only
    split
    · exact endIfRunning_keeps endKeeps_history s
    · rfl

theorem historyCanonical_writes : WritesKeep HistoryCanonical where

theorem historyCanonical_parts : PartsKeep HistoryCanonical where
  resetBlocks _ _ _ _ := reset_wf
  stored n v s _ := historyCanonical_writes.stored n v s
  written p s _ := historyCanonical_writes.written p.settings s

theorem historyCanonical_of_eq {s t : State} (e : t.history = s.history) (h : HistoryCanonical s) : HistoryCanonical t := by
  unfold HistoryCanonical
  rwa [e]

theorem historyCanonical_kept : CommandKeeps HistoryCanonical :=
  historyCanonical_parts.commandKeeps (fun s => historyCanonical_of_eq (endIfRunning_keeps endKeeps_history s))
    (fun x fs s _ => takeRaw_preserves HistoryCanonical (fun _ _ h => h) (fun _ _ h => h)
      (fun s => historyCanonical_of_eq (flushedEnd_keeps endKeeps_history s)) (fun p s _ => passStart_wf p s) admitParcel_wf
      fillGap_wf x.toNat fs s)
    (fun c s => historyCanonical_of_eq (takeTransport_history c s)) (fun s => historyCanonical_of_eq (engineReset_history s))

/-- Settles O58: an entry joins a ring in its place, and the delays and the tables are replaced at their full lengths. -/
theorem stepsKeepStoredDataWhole : Obligations.StepsKeepStoredDataWhole := by
  unfold Obligations.StepsKeepStoredDataWhole
  exact ⟨historyCanonical_kept.step_preserves (fun _ _ h => h), delaysWhole_kept.step_keeps,
    tablesWhole_kept.step_keeps⟩

end Sys2Proof.Machine
end

section
/-! The trackers stay in range: the applied steps within the limits of the speed range (R40, R41, R54), and the skew average
and the skew in force within their bounds (R34, R56, R57, R110). -/

namespace Sys2Proof.Machine

/-! ### The limits of a speed range (R40) -/

theorem speedRange_of_allowed {t : Settings} (h : t.allowed) :
    t.speedRange = 2 ∨ t.speedRange = 4 ∨ t.speedRange = 8 ∨ t.speedRange = 12 := by
  have hv : (t.speedRange : Int) = 2 ∨ (t.speedRange : Int) = 4 ∨ (t.speedRange : Int) = 8 ∨ (t.speedRange : Int) = 12 :=
    (allowed_iff t).mp h .speedRange
  omega

/-- 1.0 lies within the limits of every speed range. -/
theorem unity_within {r : Nat} (h : r = 2 ∨ r = 4 ∨ r = 8 ∨ r = 12) : rangeLow r ≤ unity ∧ unity ≤ rangeHigh r := by
  obtain rfl | rfl | rfl | rfl := h <;> decide

theorem clamp_mem {lo hi : Int} (h : lo ≤ hi) (x : Int) : lo ≤ clamp lo hi x ∧ clamp lo hi x ≤ hi := by
  unfold clamp
  omega

/-! ### A step within limits (R41) -/

/-- A tracker's applied step lies within two limits, and is 1.0 in IDLE. -/
def Tracker.within (lo hi : Int) (t : Tracker) : Prop :=
  (t.state = .idle → t.appliedStep = unity) ∧ lo ≤ t.appliedStep ∧ t.appliedStep ≤ hi

/-- A slew toward a goal within the limits stays within them. -/
theorem slewToward_mem (slew : Nat) {lo hi goal step : Int} (hg : lo ≤ goal ∧ goal ≤ hi) (hs : lo ≤ step ∧ step ≤ hi) :
    lo ≤ slewToward slew goal step ∧ slewToward slew goal step ≤ hi := by
  unfold slewToward clamp
  omega

theorem validTarget_mem {bias window r : Nat} {d : Option Nat} {g : Int} (h : validTarget bias window r d = some g) :
    rangeLow r ≤ g ∧ g ≤ rangeHigh r := by
  unfold validTarget at h
  split at h
  · cases h
  · cases h
  · dsimp only at h
    split at h
    · next hin =>
      cases h
      exact hin
    · cases h

section
variable {lo hi : Int}

theorem Tracker.within_slewed {t : Tracker} (h : t.within lo hi) (hidle : t.state ≠ .idle) (slew : Nat) {g : Int}
    (hg : lo ≤ g ∧ g ≤ hi) : ({ t with appliedStep := slewToward slew g t.appliedStep } : Tracker).within lo hi :=
  ⟨fun e => absurd e hidle, slewToward_mem slew hg h.2⟩

theorem judgeSeeking_within (slew lockCount : Nat) (target : Option Int) {t : Tracker} (h : t.within lo hi)
    (hidle : t.state ≠ .idle) (hunity : lo ≤ unity ∧ unity ≤ hi) :
    (judgeSeeking slew lockCount target t).next.within lo hi := by
  have hs := Tracker.within_slewed h hidle slew hunity
  unfold judgeSeeking
  split
  · split
    · exact ⟨fun e => (by cases e), hs.2⟩
    · exact hs
  · exact hs

/-- The rule of the state a tracker holds keeps its applied step within the limits, when 1.0 and the target lie there. -/
theorem judgeState_within (slew lockCount holdLimit : Nat) (target : Option Int) {t : Tracker} (h : t.within lo hi)
    (hidle : t.state ≠ .idle) (hunity : lo ≤ unity ∧ unity ≤ hi) (ht : ∀ g, target = some g → lo ≤ g ∧ g ≤ hi) :
    (judgeState slew lockCount holdLimit target t).next.within lo hi := by
  unfold judgeState
  split
  · exact h
  · exact Tracker.within_slewed h hidle slew hunity
  · split
    · exact h
    · exact judgeSeeking_within slew lockCount target h hidle hunity
    · exact judgeSeeking_within slew lockCount target h hidle hunity
    · split
      · exact Tracker.within_slewed h hidle slew (ht _ rfl)
      · exact ⟨fun e => (by cases e), h.2⟩
    · split
      · exact ⟨fun e => (by cases e), (Tracker.within_slewed h hidle slew (ht _ rfl)).2⟩
      · split
        · exact ⟨fun e => (by cases e), h.2⟩
        · exact h

theorem startTracker_within (b : Bool) {t : Tracker} (h : t.within lo hi) (hunity : lo ≤ unity ∧ unity ≤ hi) :
    (startTracker b t).within lo hi := by
  cases b
  · exact h
  · exact ⟨fun _ => rfl, hunity⟩

theorem endTracker_within {t : Tracker} (h : t.within lo hi) (hunity : lo ≤ unity ∧ unity ≤ hi) :
    (endTracker t).within lo hi := by
  unfold endTracker
  split
  · exact h
  · exact ⟨fun _ => rfl, hunity⟩

theorem forceTracker_within (e : MapEntry) {t : Tracker} (h : t.within lo hi) : (forceTracker e t).within lo hi := by
  unfold forceTracker
  split
  · exact h
  · split
    · exact ⟨fun e => (by cases e), h.2⟩
    · exact ⟨fun e => (by cases e), h.2⟩

theorem unforceTracker_within (e : MapEntry) {t : Tracker} (h : t.within lo hi) : (unforceTracker e t).within lo hi := by
  unfold unforceTracker
  split
  · split <;> exact h
  · split <;> exact h
  · exact h

end

theorem clampStep_within {lo hi : Int} {r : Nat} {t : Tracker} (h : t.within lo hi)
    (hr : rangeLow r ≤ unity ∧ unity ≤ rangeHigh r) : (clampStep r t).within (rangeLow r) (rangeHigh r) := by
  unfold clampStep
  split
  · next hidle => exact ⟨fun _ => h.1 hidle, h.1 hidle ▸ hr⟩
  · next hidle => exact ⟨fun e => absurd e hidle, clamp_mem (by omega) _⟩

/-! ### The applied steps of both sides -/

/-- The settings in range and the applied steps within the limits of the speed range in force. -/
def StepsKept (s : State) : Prop := SettingsInRange s ∧ StepsInRange s

theorem StepsKept.unity_within {s : State} (h : StepsKept s) :
    rangeLow s.settings.speedRange ≤ unity ∧ unity ≤ rangeHigh s.settings.speedRange :=
  Machine.unity_within (speedRange_of_allowed h.1.1)

/-- A change of one side's tracker that keeps it within the limits keeps both sides within them. -/
theorem stepsKept_modify {s : State} (h : StepsKept s) (d : Side) {f : Tracker → Tracker}
    (hf : ∀ t : Tracker, t.within (rangeLow s.settings.speedRange) (rangeHigh s.settings.speedRange) →
      (f t).within (rangeLow s.settings.speedRange) (rangeHigh s.settings.speedRange)) :
    StepsKept { s with trackers := s.trackers.modify d f } :=
  ⟨h.1, fun e => by
    dsimp only
    rw [PerSide.get_modify]
    split
    · exact hf _ (h.2 e)
    · exact h.2 e⟩

theorem stepsKept_stored (n : SettingId) (v : Int) (s : State) (hv : valueAllowed (settingKind n) v) (h : StepsKept s) :
    StepsKept (storeSetting n v s) := by
  have hin := settingsInRange_stored n v s hv h.1
  refine ⟨hin, fun d => ?_⟩
  rw [storeSetting_settings]
  by_cases hn : n = .speedRange
  · subst hn
    have hr := unity_within (speedRange_of_allowed (storeSetting_settings .speedRange v s ▸ hin.1))
    cases d
    · exact clampStep_within (h.2 .A) hr
    · exact clampStep_within (h.2 .B) hr
  · have hrange : (putSetting s.settings n v).speedRange = s.settings.speedRange :=
      Int.ofNat_inj.mp (settingValue_putSetting_of_ne s.settings v (Ne.symm hn))
    have htrackers : (storeSetting n v s).trackers = s.trackers := by
      cases n with
      | speedRange => exact absurd rfl hn
      | linkThreshold =>
        unfold storeSetting writeEffect compareLinkErrors
        dsimp only
        split <;> rfl
      | _ => rfl
    rw [hrange, htrackers]
    exact h.2 d

theorem stepsInRange_reset : StepsInRange State.reset := fun d => by cases d <;> decide

theorem stepsKept_kept : StreamParts StepsKept where
  resetBlocks f c s h := ⟨settingsInRange_kept.resetBlocks f c s h.1, stepsInRange_reset⟩
  stored := stepsKept_stored
  written p s hp h := writeProfile_allowed stepsKept_stored (allowed_of_held h.1 hp) s h
  store s x hx h := ⟨settingsInRange_kept.store s x hx h.1, h.2⟩
  updated d s ha h := by
    refine ⟨h.1, fun e => ?_⟩
    dsimp only
    rw [PerSide.get_set]
    split
    · have hactive : (s.trackers.get d).state ≠ .idle := by simpa [sideActive] using ha
      exact judgeState_within s.settings.slew s.settings.lockCount s.settings.holdLimit _ (h.2 d) hactive h.unity_within
        (fun g hg => validTarget_mem hg)
    · exact h.2 e
  forced d e s h := stepsKept_modify h d fun _ => forceTracker_within e
  unforced d e s h := stepsKept_modify h d fun _ => unforceTracker_within e
  trackerStarted s d b h := stepsKept_modify h d fun _ ht => startTracker_within b ht h.unity_within
  trackersEnded s h := ⟨h.1, fun d => by
    cases d
    · exact endTracker_within (h.2 .A) h.unity_within
    · exact endTracker_within (h.2 .B) h.unity_within⟩

/-! ### The skew (R56, R57) -/

/-- A tracker's skew average and skew in force lie within their bounds. -/
def Tracker.skewed (t : Tracker) : Prop :=
  (-2048 ≤ t.skewAverage ∧ t.skewAverage ≤ 2048) ∧ (-134217728 ≤ t.skewInForce ∧ t.skewInForce ≤ 134217728)

theorem phaseOf_mem (dir : Direction) (a b : BitVec 24) : -128 ≤ phaseOf dir a b ∧ phaseOf dir a b ≤ 128 := by
  have hlow := Int.emod_nonneg ((b.toNat : Int) - a.toNat) (by decide : (256 : Int) ≠ 0)
  have hhigh := Int.emod_lt_of_pos ((b.toNat : Int) - a.toNat) (by decide : (0 : Int) < 256)
  unfold phaseOf
  dsimp only
  generalize ((b.toNat : Int) - a.toNat) % 256 = raw at hlow hhigh
  cases dir <;> dsimp only <;> split <;> omega

theorem averageSkew_mem {phi e : Int} (hp : -128 ≤ phi ∧ phi ≤ 128) (he : -2048 ≤ e ∧ e ≤ 2048) :
    -2048 ≤ averageSkew phi e ∧ averageSkew phi e ≤ 2048 := by
  unfold averageSkew
  omega

theorem averageAfter_mem (d : Side) (s : State) (a b : Option LaneCount) (v : Bool) {e : Int} (he : -2048 ≤ e ∧ e ≤ 2048) :
    -2048 ≤ averageAfter d s a b v e ∧ averageAfter d s a b v e ≤ 2048 := by
  unfold averageAfter
  split
  · split
    · exact averageSkew_mem (phaseOf_mem _ _ _) he
    · exact he
  · exact he

theorem judgeSeeking_skew (slew lockCount : Nat) (target : Option Int) (t : Tracker) :
    (judgeSeeking slew lockCount target t).next.skewAverage = t.skewAverage := by
  unfold judgeSeeking
  split
  · split <;> rfl
  · rfl

/-- No state rule moves the skew average. -/
theorem judgeState_skew (slew lockCount holdLimit : Nat) (target : Option Int) (t : Tracker) :
    (judgeState slew lockCount holdLimit target t).next.skewAverage = t.skewAverage := by
  unfold judgeState
  split
  · rfl
  · rfl
  · split
    · rfl
    · exact judgeSeeking_skew _ _ _ _
    · exact judgeSeeking_skew _ _ _ _
    · split <;> rfl
    · split
      · rfl
      · split <;> rfl

/-- The SKEW entry in force on a side is an entry of the map, of the class SKEW. -/
theorem skewEntry_mem {s : State} {d : Side} {p : Int} (h : skewEntry s d = some p) :
    ∃ e ∈ s.map.entries, e.cls = .skew ∧ e.param.toInt = p := by
  unfold skewEntry at h
  obtain ⟨e, he, rfl⟩ := Option.map_eq_some_iff.mp h
  have hc := List.find?_some he
  simp only [Bool.and_eq_true, beq_iff_eq] at hc
  exact ⟨e, List.mem_of_find?_eq_some he, hc.1, rfl⟩

theorem skewAt_mem {entry : Option Int} (he : ∀ p, entry = some p → -134217728 ≤ p ∧ p ≤ 134217728) (mode : SkewMode) (bias : Nat)
    (cycles e : Int) : -134217728 ≤ skewAt entry mode bias cycles e ∧ skewAt entry mode bias cycles e ≤ 134217728 := by
  unfold skewAt
  split
  · exact he _ rfl
  · split
    · exact clamp_mem (by decide) _
    · decide

theorem updatedTracker_skewed {s : State} (h : SkewBounded s) (d : Side) : (updatedTracker d s).skewed := by
  obtain ⟨hentries, htrackers⟩ := h
  refine ⟨?_, skewAt_mem (fun p hp => ?_) _ _ _ _⟩
  · unfold updatedTracker trackerJudged
    dsimp only
    rw [judgeState_skew]
    exact averageAfter_mem d s _ _ _ (htrackers d).1
  · obtain ⟨e, hmem, hcls, rfl⟩ := skewEntry_mem hp
    exact hentries e hmem hcls

theorem skewBounded_modify {s : State} (h : SkewBounded s) (d : Side) {f : Tracker → Tracker}
    (hf : ∀ t : Tracker, t.skewed → (f t).skewed) : SkewBounded { s with trackers := s.trackers.modify d f } :=
  ⟨h.1, fun e => by
    dsimp only
    rw [PerSide.get_modify]
    split
    · exact hf _ (h.2 e)
    · exact h.2 e⟩

theorem clampStep_skewed (r : Nat) {t : Tracker} (h : t.skewed) : (clampStep r t).skewed := by
  unfold clampStep
  split <;> exact h

theorem endTracker_skewed {t : Tracker} (h : t.skewed) : (endTracker t).skewed := by
  unfold endTracker
  split <;> exact h

theorem forceTracker_skewed (e : MapEntry) {t : Tracker} (h : t.skewed) : (forceTracker e t).skewed := by
  unfold forceTracker
  split
  · exact h
  · split <;> exact h

theorem unforceTracker_skewed (e : MapEntry) {t : Tracker} (h : t.skewed) : (unforceTracker e t).skewed := by
  unfold unforceTracker
  split
  · split <;> exact h
  · split <;> exact h
  · exact h

theorem startTracker_skewed (b : Bool) {t : Tracker} (h : t.skewed) : (startTracker b t).skewed := by
  cases b
  · exact h
  · simp [startTracker, Tracker.skewed]

theorem mem_insertEntry {e f : MapEntry} {es : List MapEntry} (h : f ∈ insertEntry e es) : f = e ∨ f ∈ es := by
  induction es with
  | nil => exact .inl (List.mem_singleton.mp h)
  | cons g rest ih =>
    unfold insertEntry at h
    split at h
    · exact List.mem_cons.mp h
    · obtain rfl | h := List.mem_cons.mp h
      · exact .inr (List.mem_cons_self ..)
      · obtain rfl | h := ih h
        · exact .inl rfl
        · exact .inr (List.mem_cons_of_mem _ h)

/-- An entry the insert checks accept obeys the rules of its class (R110). -/
theorem classRules_of_judgeInsert {c l : Byte} {a b x : BitVec 32} {s : State} {e : MapEntry}
    (h : judgeInsert c l a b x s = .ok e) :
    e.param = x ∧ classRules e.cls l x = true ∧ l ≠ 0 ∧ l.toNat ≤ 15 ∧ a.toNat < b.toNat ∧ e.lanes = l.setWidth 4 ∧
      e.start = a.toNat ∧ e.stop = b.toNat ∧ freeId s.map.entries = some e.id ∧ s.map.entries.length < 512 ∧
      conflicts s.map.entries e = false ∧ crowded s.map.entries e = false := by
  unfold judgeInsert at h
  split at h
  · cases h
  · next k hk =>
    split at h
    · cases h
    · next i hi =>
      dsimp only at h
      split_ifs at h with hfull hlate hconflict hcrowded
      cases h
      unfold formCheck at hk
      split at hk
      · split at hk
        · next hform =>
          cases hk
          simp only [Bool.and_eq_true, bne_iff_ne, decide_eq_true_eq] at hform
          obtain ⟨⟨⟨hl, hw⟩, hc⟩, hspan⟩ := hform
          exact ⟨rfl, hc, hl, hw, hspan, rfl, rfl, rfl, hi, by omega, Bool.eq_false_iff.mpr hconflict,
            Bool.eq_false_iff.mpr hcrowded⟩
        · cases hk
      · cases hk

theorem skewBounded_reset : SkewBounded State.reset :=
  ⟨fun _ h => (List.not_mem_nil h).elim, fun d => by cases d <;> decide⟩

theorem skewBounded_writes : WritesKeep SkewBounded where
  clamped s r h := ⟨h.1, fun d => by
    cases d
    · exact clampStep_skewed r (h.2 .A)
    · exact clampStep_skewed r (h.2 .B)⟩

theorem skewBounded_kept : StreamParts SkewBounded where
  resetBlocks _ _ _ _ := skewBounded_reset
  stored n v s _ := skewBounded_writes.stored n v s
  written p s _ := skewBounded_writes.written p.settings s
  edited s es hsub h := ⟨fun e he => h.1 e (hsub.mem he), h.2⟩
  inserted c l a b x s e he h := by
    obtain ⟨hparam, hrules, -⟩ := classRules_of_judgeInsert he
    refine ⟨fun f hf hcls => ?_, h.2⟩
    obtain rfl | hf := mem_insertEntry hf
    · rw [hcls] at hrules
      simp only [classRules, Bool.and_eq_true, decide_eq_true_eq] at hrules
      rw [hparam]
      exact ⟨hrules.1.2, hrules.2⟩
    · exact h.1 f hf hcls
  updated d s _ h := ⟨h.1, fun e => by
    dsimp only
    rw [PerSide.get_set]
    split
    · exact updatedTracker_skewed h d
    · exact h.2 e⟩
  forced d e s h := skewBounded_modify h d fun _ => forceTracker_skewed e
  unforced d e s h := skewBounded_modify h d fun _ => unforceTracker_skewed e
  trackerStarted s d b h := skewBounded_modify h d fun _ => startTracker_skewed b
  trackersEnded s h := ⟨h.1, fun d => by
    cases d
    · exact endTracker_skewed (h.2 .A)
    · exact endTracker_skewed (h.2 .B)⟩

/-- Settles O57: every slew's goal lies within the limits of the speed range, and every skew is averaged or clamped. -/
theorem stepsKeepTrackersInRange : Obligations.StepsKeepTrackersInRange := by
  unfold Obligations.StepsKeepTrackersInRange
  exact ⟨fun s t hr hs e => (stepsKept_kept.step_keeps (fun _ _ h => h) s t ⟨hr, hs⟩ e).2, skewBounded_kept.step_keeps⟩

end Sys2Proof.Machine
end

section
/-! The correction map keeps its shape (R104 to R111): an edit leaves a part of the entries, and an insert puts an entry that
passed the five checks in its place. -/

namespace Sys2Proof.Machine

/-- The shape of a list of map entries: what `MapShaped` says of the entries of a state. -/
def EntriesShaped (es : List MapEntry) : Prop :=
  es.length ≤ 512 ∧ es.Pairwise (fun e f => mapBefore e f = true) ∧ (es.map (·.id)).Nodup ∧
  (∀ e ∈ es, e.id < 512 ∧ e.start < e.stop ∧ e.lanes ≠ 0) ∧ es.Pairwise MapEntry.apart ∧ ∀ l x, coverCount es l x ≤ 4

theorem mapShaped_iff (s : State) : MapShaped s ↔ EntriesShaped s.map.entries := Iff.rfl

theorem EntriesShaped.sublist {es fs : List MapEntry} (h : EntriesShaped es) (hsub : fs.Sublist es) : EntriesShaped fs := by
  obtain ⟨hlen, horder, hids, hok, hapart, hcover⟩ := h
  exact ⟨hsub.length_le.trans hlen, horder.sublist hsub, hids.sublist (hsub.map _), fun e he => hok e (hsub.mem he),
    hapart.sublist hsub, fun l x => (hsub.filter _).length_le.trans (hcover l x)⟩

/-! ### The place of an insert (R106) -/

theorem insertEntry_perm (e : MapEntry) (es : List MapEntry) : (insertEntry e es).Perm (e :: es) := by
  induction es with
  | nil => exact .refl _
  | cons f rest ih =>
    unfold insertEntry
    split
    · exact .refl _
    · exact (ih.cons f).trans (.swap e f rest)

theorem mapBefore_iff (e f : MapEntry) : mapBefore e f = true ↔ e.start < f.start ∨ e.start = f.start ∧ e.id < f.id := by
  simp [mapBefore]

theorem mapBefore_trans {e f g : MapEntry} (h : mapBefore e f = true) (k : mapBefore f g = true) : mapBefore e g = true := by
  rw [mapBefore_iff] at *
  omega

/-- Of two entries with different ids one stands before the other. -/
theorem mapBefore_of_not {e f : MapEntry} (h : ¬ mapBefore e f = true) (hid : e.id ≠ f.id) : mapBefore f e = true := by
  rw [mapBefore_iff] at *
  omega

theorem insertEntry_ordered {e : MapEntry} {es : List MapEntry} (h : es.Pairwise fun x y => mapBefore x y = true)
    (hid : ∀ f ∈ es, e.id ≠ f.id) : (insertEntry e es).Pairwise fun x y => mapBefore x y = true := by
  induction es with
  | nil => exact List.pairwise_singleton _ _
  | cons f rest ih =>
    obtain ⟨hf, hrest⟩ := List.pairwise_cons.mp h
    unfold insertEntry
    split
    · next hbefore =>
      refine List.pairwise_cons.mpr ⟨fun g hg => ?_, h⟩
      obtain rfl | hg := List.mem_cons.mp hg
      · exact hbefore
      · exact mapBefore_trans hbefore (hf g hg)
    · next hafter =>
      refine List.pairwise_cons.mpr ⟨fun g hg => ?_, ih hrest fun g hg => hid g (List.mem_cons_of_mem _ hg)⟩
      obtain rfl | hg := mem_insertEntry hg
      · exact mapBefore_of_not hafter (hid f (List.mem_cons_self ..))
      · exact hf g hg

/-! ### The id of an insert (R106) -/

theorem freeIdFrom_spec {es : List MapEntry} {i n k : Nat} (h : freeIdFrom es i n = some k) :
    i ≤ k ∧ k < i + n ∧ ∀ e ∈ es, e.id ≠ k := by
  induction n generalizing i with
  | zero => cases h
  | succ n ih =>
    unfold freeIdFrom at h
    split at h
    · obtain ⟨hlow, hhigh, hfree⟩ := ih h
      exact ⟨by omega, by omega, hfree⟩
    · next hnone =>
      cases h
      refine ⟨Nat.le_refl _, by omega, fun e he hid => hnone ?_⟩
      exact List.any_eq_true.mpr ⟨e, he, beq_iff_eq.mpr hid⟩

theorem freeId_spec {es : List MapEntry} {k : Nat} (h : freeId es = some k) : k < 512 ∧ ∀ e ∈ es, e.id ≠ k := by
  obtain ⟨-, hhigh, hfree⟩ := freeIdFrom_spec h
  exact ⟨by omega, hfree⟩

/-! ### The CONFLICT and CROWDED checks (R111) -/

theorem apart_of_not_conflicts {es : List MapEntry} {e : MapEntry} (h : conflicts es e = false) :
    ∀ f ∈ es, MapEntry.apart e f := by
  intro f hf hcls hlanes
  have hno := List.any_eq_false.mp h f hf
  simp only [hcls, beq_self_eq_true, Bool.true_and, Bool.and_eq_true, bne_iff_ne, decide_eq_true_eq] at hno
  by_contra hboth
  exact hno ⟨⟨by rwa [BitVec.and_comm], by omega⟩, by omega⟩

theorem covers_iff (e : MapEntry) (l : Lane) (x : Nat) :
    e.covers l x = true ↔ e.hasLane l = true ∧ e.start ≤ x ∧ x < e.stop := by
  simp [MapEntry.covers, and_assoc]

/-- The entries that cover a lane at a position within a range all cover it at a count point of the range at or below that
position: the latest of their starts and the range's. -/
theorem exists_countPoint {es : List MapEntry} {e : MapEntry} {l : Lane} {x : Nat} (hx : e.start ≤ x ∧ x < e.stop) :
    ∃ y ∈ countPoints es e, y ≤ x ∧ ∀ f ∈ es, f.covers l x = true → f.start ≤ y := by
  obtain ⟨y, hy, hmax⟩ : ∃ y ∈ e.start :: ((es.filter (·.covers l x)).map (·.start)),
      ∀ z ∈ e.start :: ((es.filter (·.covers l x)).map (·.start)), z ≤ y := by
    have hne : e.start :: ((es.filter (·.covers l x)).map (·.start)) ≠ [] := List.cons_ne_nil _ _
    exact ⟨_, List.max_mem hne, fun z hz => List.le_max_of_mem hz⟩
  have hlow : e.start ≤ y := hmax _ (List.mem_cons_self ..)
  have hmem : ∀ f ∈ es, f.covers l x = true → f.start ≤ y := fun f hf hc =>
    hmax _ (List.mem_cons_of_mem _ (List.mem_map_of_mem (List.mem_filter.mpr ⟨hf, hc⟩)))
  obtain rfl | hy := List.mem_cons.mp hy
  · exact ⟨_, List.mem_cons_self .., hx.1, hmem⟩
  · obtain ⟨f, hf, rfl⟩ := List.mem_map.mp hy
    obtain ⟨hf, hc⟩ := List.mem_filter.mp hf
    obtain ⟨-, hstart, -⟩ := (covers_iff f l x).mp hc
    refine ⟨_, List.mem_cons_of_mem _ (List.mem_filter.mpr ⟨List.mem_map_of_mem hf, ?_⟩), hstart, hmem⟩
    simp only [Bool.and_eq_true, decide_eq_true_eq]
    omega

/-- An entry that passes the CROWDED check leaves every position covered at most 4 times. -/
theorem coverCount_cons_le {es : List MapEntry} {e : MapEntry} (h : ∀ l x, coverCount es l x ≤ 4) (hc : crowded es e = false)
    (l : Lane) (x : Nat) : coverCount (e :: es) l x ≤ 4 := by
  unfold coverCount at *
  rw [List.filter_cons]
  split
  · next hcover =>
    obtain ⟨hlane, hx⟩ := (covers_iff e l x).mp hcover
    obtain ⟨y, hy, hyx, hall⟩ := exists_countPoint (es := es) (l := l) hx
    have hlow : (es.filter (·.covers l x)).length ≤ (es.filter (·.covers l y)).length := by
      rw [← List.countP_eq_length_filter, ← List.countP_eq_length_filter]
      refine List.countP_mono_left fun f hf hcf => ?_
      obtain ⟨hl, -, hstop⟩ := (covers_iff f l x).mp hcf
      exact (covers_iff f l y).mpr ⟨hl, hall f hf hcf, by omega⟩
    have hroom : ¬ 4 < (es.filter (·.covers l y)).length + 1 := by
      intro hmore
      have hlanes : l ∈ allLanes := by fin_cases l <;> decide
      have hno := List.any_eq_false.mp hc l hlanes
      rw [hlane, Bool.true_and, Bool.not_eq_true, List.any_eq_false] at hno
      exact hno y hy (decide_eq_true hmore)
    rw [List.length_cons]
    omega
  · exact h l x

/-! ### An accepted insert -/

theorem MapEntry.apart_symm {e f : MapEntry} (h : e.apart f) : f.apart e := fun hcls hlanes =>
  (h hcls.symm (by rwa [BitVec.and_comm])).symm

theorem EntriesShaped.insert {es : List MapEntry} {e : MapEntry} (h : EntriesShaped es) (hlen : es.length < 512)
    (hid : freeId es = some e.id) (hspan : e.start < e.stop) (hlanes : e.lanes ≠ 0) (hconflict : conflicts es e = false)
    (hcrowded : crowded es e = false) : EntriesShaped (insertEntry e es) := by
  obtain ⟨-, horder, hids, hok, hapart, hcover⟩ := h
  obtain ⟨hrange, hfree⟩ := freeId_spec hid
  have hperm := insertEntry_perm e es
  refine ⟨?length, ?order, ?ids, ?fields, ?apart, ?cover⟩
  case length =>
    rw [hperm.length_eq, List.length_cons]
    exact hlen
  case order => exact insertEntry_ordered horder fun f hf he => hfree f hf he.symm
  case ids =>
    rw [(hperm.map _).nodup_iff, List.map_cons, List.nodup_cons]
    refine ⟨fun hmem => ?_, hids⟩
    obtain ⟨f, hf, he⟩ := List.mem_map.mp hmem
    exact hfree f hf he
  case fields =>
    intro f hf
    obtain rfl | hf := mem_insertEntry hf
    · exact ⟨hrange, hspan, hlanes⟩
    · exact hok f hf
  case apart =>
    rw [hperm.pairwise_iff fun h => MapEntry.apart_symm h, List.pairwise_cons]
    exact ⟨apart_of_not_conflicts hconflict, hapart⟩
  case cover =>
    intro l x
    have hcount : coverCount (insertEntry e es) l x = coverCount (e :: es) l x := (hperm.filter _).length_eq
    rw [hcount]
    exact coverCount_cons_le hcover hcrowded l x

theorem entriesShaped_nil : EntriesShaped [] :=
  ⟨by decide, .nil, .nil, fun _ h => (List.not_mem_nil h).elim, .nil, fun _ _ => Nat.zero_le _⟩

theorem mapShaped_inserted {c l : Byte} {a b x : BitVec 32} {s : State} {e : MapEntry} (he : judgeInsert c l a b x s = .ok e)
    (h : MapShaped s) : MapShaped (setEntries (insertEntry e s.map.entries) s) := by
  obtain ⟨-, -, hl, hw, hspan, hlanes, hstart, hstop, hid, hlen, hconflict, hcrowded⟩ := classRules_of_judgeInsert he
  refine EntriesShaped.insert h hlen hid (by omega) (fun hz => hl ?_) hconflict hcrowded
  rw [hlanes] at hz
  have hz := congrArg BitVec.toNat hz
  rw [BitVec.toNat_setWidth] at hz
  refine BitVec.eq_of_toNat_eq ?_
  simp at hz ⊢
  omega

theorem mapShaped_writes : WritesKeep MapShaped where

theorem mapShaped_kept : StreamParts MapShaped where
  resetBlocks _ _ _ _ := entriesShaped_nil
  stored n v s _ := mapShaped_writes.stored n v s
  written p s _ := mapShaped_writes.written p.settings s
  edited s es hsub h := EntriesShaped.sublist h hsub
  inserted c l a b x s e he := mapShaped_inserted he

/-- Settles O54: deletions leave a part of the map, and an insert passes the five checks before it takes its place. -/
theorem stepsKeepTheMapShaped : Obligations.StepsKeepTheMapShaped := by
  unfold Obligations.StepsKeepTheMapShaped
  exact mapShaped_kept.step_keeps

end Sys2Proof.Machine
end

section
/-! Pass state, transport state, trackers and walkers stay coherent (R18, R22, R48, R120): which of them the parcels of a pass
leave as they are, what a pass start sets running and what a pass end stops. -/

namespace Sys2Proof.Machine

/-! ### Which sides are at work, and whose walkers run -/

/-- Whether a side's tracker is other than IDLE, and whether its walker runs. -/
def sideRuns (s : State) (d : Side) : Bool × Bool := (sideActive s d, (s.map.sideWalker.get d).running)

theorem sideRuns_of_eq {s t : State} (ht : ∀ d, sideActive t d = sideActive s d)
    (hm : ∀ d, (t.map.sideWalker.get d).running = (s.map.sideWalker.get d).running) : sideRuns t = sideRuns s :=
  funext fun d => Prod.ext (ht d) (hm d)

theorem sideActive_modify (s : State) (d : Side) (f : Tracker → Tracker) (hf : ∀ t, (f t).state = .idle ↔ t.state = .idle)
    (e : Side) : sideActive { s with trackers := s.trackers.modify d f } e = sideActive s e := by
  rw [Bool.eq_iff_iff, sideActive_iff, sideActive_iff, PerSide.get_modify]
  split
  · exact not_congr (hf _)
  · exact Iff.rfl

theorem sideRuns_withTracker (d : Side) (f : Tracker → Tracker) (s : State) (hf : ∀ t, (f t).state = .idle ↔ t.state = .idle) :
    sideRuns (withTracker d f s) = sideRuns s :=
  sideRuns_of_eq (sideActive_modify s d f hf) fun _ => rfl

theorem sideRuns_withSideWalker (d : Side) (f : Walker → Walker) (s : State) (hf : ∀ w, (f w).running = w.running) :
    sideRuns (withSideWalker d f s) = sideRuns s := by
  refine sideRuns_of_eq (fun _ => rfl) fun e => ?_
  rw [withSideWalker, PerSide.get_modify]
  split
  · exact hf _
  · rfl

theorem forceTracker_idle_iff (e : MapEntry) (t : Tracker) : (forceTracker e t).state = .idle ↔ t.state = .idle := by
  unfold forceTracker
  split_ifs with hidle <;> simp [hidle]

theorem unforceTracker_state (e : MapEntry) (t : Tracker) : (unforceTracker e t).state = t.state := by
  unfold unforceTracker
  split
  · split <;> rfl
  · split <;> rfl
  · rfl

theorem sideRuns_appendCue (c : Cue) (s : State) : sideRuns (appendCue c s) = sideRuns s :=
  appendCue_keeps sideRuns (fun _ _ => rfl) (fun _ _ => rfl) c s

theorem activateEntry_sideRuns (d : Side) (b : Bool) (s : State) (e : MapEntry) :
    sideRuns (activateEntry d b s e) = sideRuns s := by
  have hw : sideRuns (withSideWalker d (fun w => { w with active := addActive w.active (lanesOnSide d e) e.id }) s) =
      sideRuns s := sideRuns_withSideWalker d _ s fun _ => rfl
  unfold activateEntry
  dsimp only
  split
  · rw [sideRuns_withTracker _ _ _ (forceTracker_idle_iff e), hw]
  · split
    · exact hw
    · rw [sideRuns_appendCue, hw]
  · exact hw

theorem endEntry_sideRuns (d : Side) (s : State) (e : MapEntry) : sideRuns (endEntry d s e) = sideRuns s := by
  have hw : sideRuns (withSideWalker d (fun w => { w with active := dropActive w.active e.id }) s) = sideRuns s :=
    sideRuns_withSideWalker d _ s fun _ => rfl
  unfold endEntry
  dsimp only
  split
  · rw [sideRuns_withTracker _ _ _ fun t => by rw [unforceTracker_state], hw]
  · rw [sideRuns_appendCue, hw]
  · exact hw

theorem walkTo_sideRuns (d : Side) (x : Nat) (s : State) : sideRuns (walkTo d x s) = sideRuns s := by
  have hp : ∀ x s, sideRuns (walkPosition d x s) = sideRuns s := by
    intro x s
    have hw : ∀ n t, sideRuns (withSideWalker d (fun w => { w with cursor := x, next := n }) t) = sideRuns t :=
      fun _ t => sideRuns_withSideWalker d _ t fun _ => rfl
    unfold walkPosition
    dsimp only
    rw [hw, foldl_keeps sideRuns _ (activateEntry_sideRuns d false), foldl_keeps sideRuns _ (endEntry_sideRuns d)]
  have hf : ∀ n x s, sideRuns (walkFrom d x n s) = sideRuns s := by
    intro n
    induction n with
    | zero => exact fun _ _ => rfl
    | succ n ih => exact fun x s => (ih _ _).trans (hp _ _)
  unfold walkTo
  dsimp only
  split
  · exact hf _ _ _
  · rfl

/-! ### The boundary of a parcel -/

theorem eqKeeps_sideRuns : EqKeeps sideRuns :=
  ⟨fun _ _ => rfl, fun _ _ => rfl, fun _ _ => rfl, fun _ _ => rfl, fun _ _ => rfl, fun _ _ => rfl⟩

theorem production_sideRuns (d : Side) (s : State) : sideRuns (production d s) = sideRuns s := by
  have hf : ∀ s, sideRuns (produceFrame d s) = sideRuns s := by
    intro s
    have hx : ∀ f t, sideRuns (withResampler d f t) = sideRuns t := fun _ _ => rfl
    unfold produceFrame
    dsimp only
    rw [hx, handOnFrame_keeps eqKeeps_sideRuns (fun _ _ => rfl), walkTo_sideRuns, hx]
  have hn : ∀ n s, sideRuns (produceUpTo d n s) = sideRuns s := by
    intro n
    induction n with
    | zero => exact fun _ => rfl
    | succ n ih =>
      intro s
      unfold produceUpTo
      split
      · rw [ih, hf]
      · rfl
  unfold production
  split
  · exact hn _ _
  · rfl

theorem judgeSeeking_ne_idle (slew lockCount : Nat) (target : Option Int) {t : Tracker} (h : t.state ≠ .idle) :
    (judgeSeeking slew lockCount target t).next.state ≠ .idle := by
  unfold judgeSeeking
  split
  · split
    · exact fun e => (by cases e)
    · exact h
  · exact h

/-- No state rule takes a tracker at work to IDLE. -/
theorem judgeState_ne_idle (slew lockCount holdLimit : Nat) (target : Option Int) {t : Tracker} (h : t.state ≠ .idle) :
    (judgeState slew lockCount holdLimit target t).next.state ≠ .idle := by
  unfold judgeState
  split
  · exact h
  · exact h
  · split
    · exact h
    · exact judgeSeeking_ne_idle _ _ _ h
    · exact judgeSeeking_ne_idle _ _ _ h
    · split
      · exact h
      · exact fun e => (by cases e)
    · split
      · exact fun e => (by cases e)
      · split
        · exact fun e => (by cases e)
        · exact h

/-- What an update of a tracker changes beside the counters, the events and the trim loop is the tracker alone. -/
theorem updateTracker_trackers (d : Side) (s : State) : (updateTracker d s).trackers =
    if sideActive s d then s.trackers.set d (updatedTracker d s) else s.trackers := by
  have hm : ∀ t, (trimCount d t).trackers = t.trackers := by
    intro t
    unfold trimCount
    split
    · dsimp only
      split <;> rfl
    · rfl
  unfold updateTracker
  split
  · dsimp only
    rw [hm]
    split <;> rfl
  · rfl

theorem updateTracker_sideRuns (d : Side) (s : State) : sideRuns (updateTracker d s) = sideRuns s := by
  refine sideRuns_of_eq (fun e => ?_) fun e => by rw [updateTracker_map]
  rw [sideActive, updateTracker_trackers]
  split
  · next ha =>
    rw [PerSide.get_set]
    split
    · next he =>
      rw [he, ha, bne_iff_ne]
      exact judgeState_ne_idle _ _ _ _ ((sideActive_iff s d).mp ha)
    · rfl
  · rfl

theorem boundary_sideRuns (s : State) : sideRuns (boundary s) = sideRuns s := by
  unfold boundary
  dsimp only
  rw [installPending_keeps sideRuns (fun _ _ _ _ => rfl), foldl_keeps sideRuns]
  · rfl
  · intro s w
    cases w with
    | update d => exact updateTracker_sideRuns d s
    | produce d => exact production_sideRuns d s

theorem boundaryKeeps_intakeWalker : BoundaryKeeps (fun s => s.map.intakeWalker) :=
  ⟨⟨⟨fun _ _ => rfl, fun _ _ => rfl, fun _ _ => rfl, fun _ _ => rfl, fun _ _ => rfl, fun _ _ => rfl⟩, fun _ _ => rfl,
    fun _ _ => rfl, fun _ _ => rfl, fun _ _ _ => rfl, fun _ _ _ => rfl⟩, fun _ _ => rfl, fun _ _ => rfl, fun _ _ _ _ => rfl,
    fun _ _ => rfl⟩

/-! ### The frames of a parcel -/

theorem intakeWalk_running (es : List MapEntry) (x : Nat) (w : Walker) : (intakeWalk es x w).running = w.running := by
  unfold intakeWalk
  split
  · rfl
  · dsimp only
    rw [foldl_keeps Walker.running activateIntake (fun _ _ => rfl), foldl_keeps Walker.running endIntake (fun _ _ => rfl)]

theorem intakeSeek_running (es : List MapEntry) (p : Nat) (w : Walker) : (intakeSeek es p w).running = true := by
  unfold intakeSeek
  rw [foldl_keeps Walker.running activateIntake (fun _ _ => rfl)]

/-- A frame moves the intake walker to its position and leaves the rest of the map (R28, R117). -/
theorem writeFrame_map (p : Nat) (f : Quad HistEntry) (s : State) :
    (writeFrame p f s).map = { s.map with intakeWalker := intakeWalk s.map.entries p s.map.intakeWalker } := by
  unfold writeFrame
  dsimp only
  rw [foldl_keeps State.map _ fun s l => presentFrame_map l p s]
  have hw : ((lanesInUse s).foldl (fun t l => writeHistory l p (f.get l) t) s).map = s.map :=
    foldl_keeps State.map (fun t l => writeHistory l p (f.get l) t) (fun _ _ => rfl) _ s
  show ({ ((lanesInUse s).foldl (fun t l => writeHistory l p (f.get l) t) s).map with
    intakeWalker := intakeWalk ((lanesInUse s).foldl (fun t l => writeHistory l p (f.get l) t) s).map.entries p
      ((lanesInUse s).foldl (fun t l => writeHistory l p (f.get l) t) s).map.intakeWalker } : CorrectionMap) = _
  rw [hw]

/-! ### What a pass is seen by -/

/-- The parts of the state that coherence speaks of. -/
structure PassView where
  running : Bool
  transport : Transport
  expected : Option Nat
  walker : Bool
  sides : Side → Bool × Bool

def passView (s : State) : PassView :=
  ⟨s.intake.running, s.intake.transport, s.intake.expected, s.map.intakeWalker.running, sideRuns s⟩

/-- Coherence of a view, part by part. -/
def PassView.coherent (v : PassView) : Prop :=
  (v.running = true → v.transport = .play) ∧ (v.running = false → v.expected = none ∧ ∀ d, (v.sides d).1 = false) ∧
  v.walker = v.running ∧ ∀ d, (v.sides d).2 = (v.sides d).1

theorem passCoherent_iff (s : State) : PassCoherent s ↔ (passView s).coherent := by
  have hidle : ∀ d, (s.trackers.get d).state = .idle ↔ sideActive s d = false := fun d => by
    rw [← Bool.not_eq_true, sideActive_iff, not_not]
  unfold PassCoherent PassView.coherent
  simp only [hidle]
  exact Iff.rfl

theorem passCoherent_of_view {s t : State} (e : passView t = passView s) (h : PassCoherent s) : PassCoherent t := by
  rw [passCoherent_iff] at *
  rwa [e]

theorem passView_ext {s t : State} (hi : { t.intake with position := 0 } = { s.intake with position := 0 })
    (hw : t.map.intakeWalker.running = s.map.intakeWalker.running) (hs : sideRuns t = sideRuns s) : passView t = passView s := by
  simp only [Intake.mk.injEq] at hi
  obtain ⟨htransport, hrunning, -, -, -, hexpected, -⟩ := hi
  unfold passView
  rw [hw, hs, hrunning, htransport, hexpected]

theorem frameKeeps_sideRuns : FrameKeeps sideRuns :=
  ⟨fun _ _ => rfl, fun _ _ => rfl, fun _ _ => rfl, fun _ _ => rfl, fun _ _ => rfl,
    fun r s => sideRuns_of_eq (fun d => by simp [sideActive]) fun d => by simp⟩

theorem writeFrame_passView (p : Nat) (f : Quad HistEntry) (s : State) : passView (writeFrame p f s) = passView s :=
  passView_ext (writeFrame_keeps frameKeeps_intake p f s) (by rw [writeFrame_map]; exact intakeWalk_running _ _ _)
    (writeFrame_keeps frameKeeps_sideRuns p f s)

/-- A parcel of a pass leaves everything that coherence speaks of as it is. -/
theorem writeParcel_passView (p : Nat) (fs : List (Quad HistEntry)) (s : State) :
    passView (writeParcel p fs s) = passView s := by
  have hf : ∀ (fs : List (Quad HistEntry)) p s, passView (writeFrames p fs s) = passView s := by
    intro fs
    induction fs with
    | nil => exact fun _ _ => rfl
    | cons f rest ih => exact fun p s => (ih _ _).trans (writeFrame_passView p f s)
  refine (passView_ext ?_ ?_ ?_).trans (hf fs p s)
  · rw [writeParcel, boundary_intake]
  · exact congrArg Walker.running (boundary_keeps boundaryKeeps_intakeWalker _)
  · exact boundary_sideRuns _

theorem fillGap_passView (p n : Nat) (s : State) : passView (fillGap p n s) = passView s := by
  suffices hf : passView (fillParcels p n s) = passView s from hf
  induction n generalizing p s with
  | zero => rfl
  | succ n ih => exact (ih _ _).trans (writeParcel_passView _ _ _)

/-- A coherent state with a pass running. -/
def PassRuns (s : State) : Prop := PassCoherent s ∧ s.intake.running = true

theorem passRuns_of_view {s t : State} (e : passView t = passView s) (h : PassRuns s) : PassRuns t :=
  ⟨passCoherent_of_view e h.1, (congrArg PassView.running e).trans h.2⟩

/-- An admitted parcel sets the expected position of the running pass. -/
theorem admitParcel_passRuns (p : Nat) (fs : List RawFrame) (s : State) (h : PassRuns s) : PassRuns (admitParcel p fs s) := by
  have hw : PassRuns (writeParcel p (fs.map entriesOfFrame) (withCounters (fun c =>
      { c with framesAdmitted := (lanesInUse s).foldl (fun q l => q.modify l (countUp · 16)) c.framesAdmitted }) s)) :=
    passRuns_of_view (writeParcel_passView _ _ _) h
  obtain ⟨⟨hplay, -, hwalker, hsides⟩, hrun⟩ := hw
  exact ⟨⟨hplay, fun hno => absurd (hrun.symm.trans hno) (by decide), hwalker, hsides⟩, hrun⟩

/-! ### The start of a pass (R21, R22) -/

/-- Every side's walker runs exactly when its tracker is at work. -/
def SidesAgree (s : State) : Prop := ∀ d, (sideRuns s d).2 = (sideRuns s d).1

theorem seekSide_sideRuns (d : Side) (p : Nat) (s : State) (e : Side) :
    sideRuns (seekSide d p s) e = if e = d then (sideActive s d, true) else sideRuns s e := by
  unfold seekSide
  rw [foldl_keeps sideRuns _ (activateEntry_sideRuns d true)]
  unfold sideRuns
  rw [withSideWalker, PerSide.get_modify]
  split
  · next he => rw [he]; rfl
  · rfl

theorem startBlocks_sideActive (p : Nat) (s : State) (d e : Side) :
    sideActive (startBlocks p s d) e = if e = d then true else sideActive s e := by
  unfold sideActive startBlocks
  rw [PerSide.get_modify]
  split
  · rfl
  · rfl

theorem startLanes_keeps {γ : Type} {g : State → γ} (hd : ∀ (s : State) x, g { s with detectors := x } = g s)
    (hr : ∀ (s : State) x, g { s with repairs := x } = g s) (hl : ∀ (s : State) x, g { s with eqLanes := x } = g s)
    (ls : List Lane) (s : State) : g (ls.foldl startLane s) = g s := by
  refine foldl_keeps g _ (fun s l => ?_) ls s
  unfold startLane
  generalize (if inUse s l then s.detectors.modify l startDetector else s.detectors) = x
  generalize (if inUse s l then s.repairs.set l startRepair else s.repairs) = y
  rw [← hd s x, ← hr { s with detectors := x } y]
  exact hl { s with detectors := x, repairs := y } _

theorem startSide_sidesAgree (p : Nat) (s : State) (d : Side) (h : SidesAgree s) : SidesAgree (startSide p s d) := by
  intro e
  unfold startSide
  split
  · rw [seekSide_sideRuns]
    have hl : ∀ ls : List Lane, sideRuns (ls.foldl startLane s) = sideRuns s :=
      startLanes_keeps (fun _ _ => rfl) (fun _ _ => rfl) (fun _ _ => rfl) (s := s)
    split
    · rw [startBlocks_sideActive, if_pos rfl]
    · next he =>
      have hb : sideRuns (startBlocks p ((lanesOf d).foldl startLane s) d) e = sideRuns s e := by
        rw [← hl (lanesOf d)]
        exact Prod.ext ((startBlocks_sideActive p _ d e).trans (if_neg he)) rfl
      rw [hb]
      exact h e
  · rw [show sideRuns { s with trackers := s.trackers.modify d (startTracker false) } = sideRuns s from
      sideRuns_withTracker d _ s fun _ => Iff.rfl]
    exact h e

theorem productionKeeps_passIntake : ProductionKeeps (fun s => (s.intake, s.map.intakeWalker)) :=
  ⟨⟨fun _ _ => rfl, fun _ _ => rfl, fun _ _ => rfl, fun _ _ => rfl, fun _ _ => rfl, fun _ _ => rfl⟩, fun _ _ => rfl,
    fun _ _ => rfl, fun _ _ => rfl, fun _ _ _ => rfl, fun _ _ _ => rfl⟩

/-- What a pass start does to intake and to the intake walker (R21, R22). -/
theorem passStart_intake (p : Nat) (s : State) : ((passStart p s).intake, (passStart p s).map.intakeWalker) =
    ((beginPass p s).intake, intakeSeek s.map.entries p s.map.intakeWalker) :=
  foldl_keeps (fun s => (s.intake, s.map.intakeWalker)) _
    (startSide_keeps productionKeeps_passIntake (fun _ _ => rfl) (fun _ _ => rfl) p) _
    (withIntakeWalker (intakeSeek (beginPass p s).map.entries p) (beginPass p s))

theorem passStart_passRuns (p : Nat) (s : State) (h : PassCoherent s) (hplay : s.intake.transport = .play) :
    PassRuns (passStart p s) := by
  obtain ⟨hintake, hwalker⟩ := Prod.ext_iff.mp (passStart_intake p s)
  dsimp only at hintake hwalker
  have hrun : (passStart p s).intake.running = true := by rw [hintake]; rfl
  have hagree : SidesAgree (passStart p s) :=
    foldl_preserves SidesAgree _ (fun s d => startSide_sidesAgree p s d) _
      (withIntakeWalker (intakeSeek (beginPass p s).map.entries p) (beginPass p s)) h.2.2.2
  refine ⟨⟨fun _ => ?_, fun hno => absurd (hrun.symm.trans hno) (by decide), ?_, hagree⟩, hrun⟩
  · rw [hintake]
    exact hplay
  · rw [hwalker, intakeSeek_running, hrun]

/-! ### The end of a pass (R31, R33) -/

theorem stopWalker_running (w : Walker) : (stopWalker w).running = false := by
  unfold stopWalker
  split
  · rfl
  · next h => exact Bool.eq_false_iff.mpr h

theorem endTracker_state (t : Tracker) : (endTracker t).state = .idle := by
  unfold endTracker
  split
  · assumption
  · rfl

theorem closePass_passCoherent (s : State) : PassCoherent (closePass s) := by
  let t : State := stopWalkers { s with trackers := ⟨endTracker s.trackers.a, endTracker s.trackers.b⟩ }
  have hview : passView (closePass s) = passView { t with intake := { t.intake with running := false, expected := none } } :=
    installPending_keeps passView (fun _ _ _ _ => rfl) _
  rw [passCoherent_iff, hview]
  have hidle : ∀ d, sideActive t d = false := fun d => by
    cases d <;> exact bne_eq_false_iff_eq.mpr (endTracker_state _)
  refine ⟨fun hno => (by cases hno), fun _ => ⟨rfl, hidle⟩, stopWalker_running _, fun d => ?_⟩
  exact ((by cases d <;> exact stopWalker_running _ : (t.map.sideWalker.get d).running = false)).trans (hidle d).symm

theorem flushedEnd_passCoherent (s : State) : PassCoherent (flushedEnd s) := closePass_passCoherent _

theorem flushedEnd_transport (s : State) : (flushedEnd s).intake.transport = s.intake.transport :=
  flushedEnd_keeps endKeeps_transport s

theorem endIfRunning_passCoherent (s : State) (h : PassCoherent s) : PassCoherent (endIfRunning s) := by
  unfold endIfRunning
  split
  · exact flushedEnd_passCoherent s
  · exact h

theorem endIfRunning_running (s : State) : (endIfRunning s).intake.running = false := by
  unfold endIfRunning
  split
  · unfold flushedEnd closePass
    exact congrArg PassView.running (installPending_keeps passView (fun _ _ _ _ => rfl) _)
  · next h => exact Bool.eq_false_iff.mpr h

/-! ### Commands -/

theorem startWith_passRuns (p : Nat) (fs : List RawFrame) (s : State) (h : PassCoherent s) (hplay : s.intake.transport = .play) :
    PassRuns (startWith p fs s) := admitParcel_passRuns _ _ _ (passStart_passRuns p s h hplay)

theorem noteBreak_passView (s : State) : passView (noteBreak s) = passView s := rfl

theorem breakWith_passRuns (p : Nat) (fs : List RawFrame) (s : State) (hplay : s.intake.transport = .play) :
    PassRuns (breakWith p fs s) := by
  have hview := noteBreak_passView (flushedEnd s)
  exact startWith_passRuns p fs _ (passCoherent_of_view hview (flushedEnd_passCoherent s))
    ((congrArg PassView.transport hview).trans ((flushedEnd_transport s).trans hplay))

theorem continueWith_passRuns (p : Nat) (fs : List RawFrame) (s : State) (h : PassRuns s) : PassRuns (continueWith p fs s) := by
  have hb := breakWith_passRuns p fs s (h.1.1 h.2)
  unfold continueWith
  split
  · exact hb
  · split
    · exact admitParcel_passRuns _ _ _ h
    · split
      · exact admitParcel_passRuns _ _ _ (passRuns_of_view (fillGap_passView _ _ _) h)
      · exact hb

theorem takeRaw_passCoherent (p : Nat) (fs : List RawFrame) (s : State) (h : PassCoherent s) : PassCoherent (takeRaw p fs s) := by
  unfold takeRaw
  split
  · exact h
  · next hplay =>
    rw [not_not] at hplay
    split
    · exact endIfRunning_passCoherent (noteBreak s) h
    · split
      · next hrun => exact (continueWith_passRuns p fs s ⟨h, hrun⟩).1
      · exact (startWith_passRuns p fs s h hplay).1

theorem takeTransport_passCoherent (c : Nat) (s : State) (h : PassCoherent s) : PassCoherent (takeTransport c s) := by
  unfold takeTransport
  split
  · exact h
  · next t _ =>
    dsimp only
    split
    · obtain ⟨-, hstopped, hwalker, hsides⟩ := endIfRunning_passCoherent s h
      exact ⟨fun hrun => absurd ((endIfRunning_running s).symm.trans hrun) (by decide), hstopped, hwalker, hsides⟩
    · next hkept =>
      obtain ⟨hplay, hstopped, hwalker, hsides⟩ := h
      exact ⟨fun hrun => by_contra fun hne => hkept ⟨hplay hrun, hne⟩, hstopped, hwalker, hsides⟩

theorem engineReset_passCoherent (s : State) (h : PassCoherent s) : PassCoherent (engineReset s) := by
  have hend : PassCoherent (endForReset s) := by
    unfold endForReset
    split
    · exact closePass_passCoherent _
    · exact passCoherent_of_view (installPending_keeps passView (fun _ _ _ _ => rfl) s) h
  have habandon : passView (abandonForReset (endForReset s)) = passView (endForReset s) := by
    unfold abandonForReset
    split <;> rfl
  exact passCoherent_of_view (s := abandonForReset (endForReset s)) rfl (passCoherent_of_view habandon hend)

theorem setEntries_passView (es : List MapEntry) (s : State) : passView (setEntries es s) = passView s := by
  refine passView_ext rfl ?_ (sideRuns_of_eq (fun _ => rfl) fun d => ?_)
  · rw [setEntries_intakeWalker]
  · rw [setEntries_sideWalker]

theorem clampStep_state (r : Nat) (t : Tracker) : (clampStep r t).state = t.state := by
  unfold clampStep
  split <;> rfl

theorem passCoherent_writes : WritesKeep PassCoherent where
  clamped s r := passCoherent_of_view (passView_ext rfl rfl (sideRuns_of_eq (fun d => by
    cases d <;> exact congrArg (· != TrackerState.idle) (clampStep_state r _)) fun _ => rfl))

theorem passCoherent_reset : PassCoherent State.reset :=
  ⟨fun h => (by cases h), fun _ => ⟨rfl, fun d => by cases d <;> rfl⟩, rfl, fun d => by cases d <;> rfl⟩

theorem passCoherent_parts : PartsKeep PassCoherent where
  resetBlocks _ _ _ _ := passCoherent_reset
  stored n v s _ := passCoherent_writes.stored n v s
  written p s _ := passCoherent_writes.written p.settings s
  edited s es _ := passCoherent_of_view (setEntries_passView es s)
  inserted _ _ _ _ _ s _ _ := passCoherent_of_view (setEntries_passView _ s)

theorem passCoherent_kept : CommandKeeps PassCoherent :=
  passCoherent_parts.commandKeeps endIfRunning_passCoherent (fun x fs s _ => takeRaw_passCoherent x.toNat fs s)
    takeTransport_passCoherent engineReset_passCoherent

/-- Settles O56: a pass starts only under PLAY, with every side's tracker and walker together; its parcels leave them running,
and its end stops them all. -/
theorem stepsKeepPassesCoherent : Obligations.StepsKeepPassesCoherent := by
  unfold Obligations.StepsKeepPassesCoherent
  exact passCoherent_kept.step_preserves (fun _ _ h => h)

end Sys2Proof.Machine
end

section
/-! Steps and commands: every command ends with a next state whose lines are settled, and leaves the queue of waiting commands
(00_scope 2.3, R186, log 2, log 20); what a millisecond without a command does (R173, R179, R183, R190). -/

namespace Sys2Proof.Machine

/-! ### Every command ends -/

theorem handOn_eq_done (i : Instr) (s : State) : ∃ u, handOn i s = done u := by
  cases i <;> exact ⟨_, rfl⟩

theorem deliver_eq_done (p : Port) (bytes : List Byte) (s : State) : ∃ u, deliver p bytes s = done u := by
  unfold deliver
  split
  · split
    · exact ⟨_, rfl⟩
    · exact handOn_eq_done _ s
  · exact ⟨_, rfl⟩

/-- Every command ends with a next state, its lines settled. -/
theorem exec_eq_done (c : Instr) (s : State) : ∃ u, exec c s = done u := by
  cases c with
  | parcelCheckFailed p bytes => exact deliver_eq_done p bytes s
  | parcelDroppedDuringStartUp p bytes => exact deliver_eq_done p bytes s
  | directiveForOtherUnit h body =>
    show ∃ u, execDirectiveForOtherUnit h body s = done u
    unfold execDirectiveForOtherUnit
    split
    · exact deliver_eq_done _ _ s
    · exact ⟨_, rfl⟩
  | unknownDirective h body =>
    show ∃ u, execUnknownDirective h body s = done u
    unfold execUnknownDirective
    split
    · exact deliver_eq_done _ _ s
    · exact ⟨_, rfl⟩
  | _ => exact ⟨_, rfl⟩

/-! ### The queue of waiting commands -/

theorem pendingIs_writes (q : List Instr) : WritesKeep fun s => s.pending = q where

theorem pendingIs_kept (q : List Instr) : StreamParts fun s => s.pending = q where
  resetBlocks _ _ _ h := h
  stored n v s _ := (pendingIs_writes q).stored n v s
  written p s _ := (pendingIs_writes q).written p.settings s

/-- Settles O2: no change of any part of the state is a change of the queue. -/
theorem commandsLeaveTheQueue : Obligations.CommandsLeaveTheQueue := by
  unfold Obligations.CommandsLeaveTheQueue
  intro c s
  obtain ⟨u, hu⟩ := exec_eq_done c s
  exact ⟨_, hu, (pendingIs_kept s.pending).commandKeeps.exec_preserves c s _ rfl hu⟩

/-- Settles O1, by the definition of a step. -/
theorem stepRunsTheFrontCommand : Obligations.StepRunsTheFrontCommand := by
  unfold Obligations.StepRunsTheFrontCommand
  intro c rest s hq
  unfold step
  rw [hq]

/-! ### The indicator lines (R186, R191) -/

/-- Whether a source of R186 is true, as the table says it. -/
def SourceHolds (s : State) : IndicatorSource → Prop
  | .low => False
  | .high => True
  | .lockA => s.trackers.a.state = .locked
  | .lockB => s.trackers.b.state = .locked
  | .lockAll =>
    (s.trackers.a.state ≠ .idle ∨ s.trackers.b.state ≠ .idle) ∧
    (s.trackers.a.state = .locked ∨ s.trackers.a.state = .idle) ∧
    (s.trackers.b.state = .locked ∨ s.trackers.b.state = .idle)
  | .lockAny => s.trackers.a.state = .locked ∨ s.trackers.b.state = .locked
  | .dropoutAny => ∃ l : Lane, (s.detectors.get l).state = .dropout ∨ (s.detectors.get l).state = .recovering
  | .eventPending => ∃ k : EventKind, s.flags.getLsbD k.code = true ∧ s.settings.noticeMask.getLsbD k.code = true
  | .logHigh => 48 ≤ s.log.length
  | .pauseRequest => s.lines.pauseRequest = true

theorem exists_code_iff (f : Nat → Prop) : (∃ k : EventKind, f k.code) ↔ ∃ i < 12, f i := by
  constructor
  · rintro ⟨k, hk⟩
    exact ⟨k.code, eventKind_code_lt k, hk⟩
  · rintro ⟨i, hi, hf⟩
    have hcode : ∀ i : Fin 12, ∃ k ∈ [EventKind.tbLostA, .tbLostB, .logHigh, .logFull, .streamGap, .streamBreak, .linkDegraded,
        .loadAbandoned, .profileFault, .directiveOverrun, .portDown, .outputClip], k.code = i.val := by decide
    obtain ⟨k, -, hk⟩ := hcode ⟨i, hi⟩
    exact ⟨k, hk ▸ hf⟩

/-- Some flag is set whose mask bit is on. -/
theorem eventPending_iff (s : State) : eventPending s = true ↔
    ∃ k : EventKind, s.flags.getLsbD k.code = true ∧ s.settings.noticeMask.getLsbD k.code = true := by
  rw [exists_code_iff fun i => s.flags.getLsbD i = true ∧ s.settings.noticeMask.getLsbD i = true, eventPending, bne_iff_ne]
  refine ⟨fun hne => ?_, fun ⟨i, hi, hflag, hmask⟩ hz => ?_⟩
  · by_contra hno
    refine hne (BitVec.eq_of_getLsbD_eq fun i hi => ?_)
    rw [BitVec.getLsbD_and, BitVec.ofNat_eq_ofNat, BitVec.getLsbD_zero, Bool.and_eq_false_iff, ← Bool.not_eq_true, ← Bool.not_eq_true]
    by_contra hboth
    rw [not_or, not_not, not_not] at hboth
    exact hno ⟨i, hi, hboth⟩
  · have hbit := congrArg (·.getLsbD i) hz
    rw [BitVec.getLsbD_and, hflag, hmask] at hbit
    simp at hbit

theorem sourceTrue_iff (s : State) (x : IndicatorSource) : sourceTrue s x = true ↔ SourceHolds s x := by
  cases x with
  | low => exact Bool.false_eq_true.to_iff
  | high => exact iff_of_true rfl trivial
  | lockA | lockB => exact beq_iff_eq
  | lockAll => simp [sourceTrue, SourceHolds, sideActive, PerSide.get, or_comm, and_assoc]
  | lockAny => simp [sourceTrue, SourceHolds]
  | dropoutAny => simp [sourceTrue, SourceHolds, Quad.toList, Fin.exists_fin_succ, Quad.get]
  | eventPending => exact eventPending_iff s
  | logHigh => exact decide_eq_true_iff
  | pauseRequest => exact Iff.rfl

theorem settleLines_level (s : State) (line : Fin 4) : (settleLines s).lines.levels.get line = true ↔
    (s.unit.phase = .startUp ∨ s.unit.phase = .running) ∧ SourceHolds s (s.settings.indicator.get line) := by
  rw [settleLines, Quad.get_tabulate, lineLevel, Bool.and_eq_true, sourceTrue_iff]
  simp [outOfReset]

/-- Settles O4: every command ends by settling the lines, and settling changes no source. -/
theorem linesFollowTheirSources : Obligations.LinesFollowTheirSources := by
  unfold Obligations.LinesFollowTheirSources
  intro c s
  obtain ⟨u, hu⟩ := exec_eq_done c s
  exact ⟨_, hu, fun line => settleLines_level u line⟩

/-! ### One millisecond (log 2) -/

theorem step_of_idle {s : State} (h : s.pending = []) : step s = .next (settleLines (tick s)) := by
  unfold step
  rw [h]
  rfl

theorem next_settled {t u : State} (h : t = u) :
    (.next (settleLines t) : Host.Outcome State Fault Refusal) = .next (settleLines u) := by rw [h]

/-- Lines settled before a pulse period are settled again after it. -/
theorem settleLines_takeUpDuty (s : State) : settleLines (takeUpDuty (settleLines s)) = settleLines (takeUpDuty s) := by
  unfold takeUpDuty
  rw [show outOfReset (settleLines s) = outOfReset s from rfl]
  split <;> rfl

theorem takeUpDuty_of_phase {s : State} (h : s.unit.phase = .startUp ∨ s.unit.phase = .running) :
    takeUpDuty s = { s with lines := { s.lines with lineDuty := s.lines.duty } } := by
  unfold takeUpDuty
  rw [if_pos (by simpa [outOfReset] using h)]

theorem tick_of_running {s : State} (h : s.unit.phase = .running) : tick s = takeUpDuty (tickStore (tickLoad s)) := by
  unfold tick
  rw [h]

theorem tick_of_startUp {s : State} (h : s.unit.phase = .startUp) : tick s = takeUpDuty (tickStartUp s) := by
  unfold tick
  rw [h]

theorem tickLoad_of_none {s : State} (h : s.stager.timer = none) : tickLoad s = s := by
  unfold tickLoad
  rw [h]

theorem tickStore_of_idle {s : State} (h : s.store.state = .idle) : tickStore s = s := if_pos h

theorem tickStore_of_busy {s : State} (h : s.store.state ≠ .idle) : tickStore s =
    if storeTime s.store.state ≤ s.store.elapsed + 1 then withStore completeStore s
    else withStore (fun x => { x with elapsed := x.elapsed + 1 }) s := if_neg h

theorem damageSlots_zero (x : ProfileStore) : damageSlots 0 x = x := by
  have hslots : (Quad.tabulate fun n => if (0 : BitVec 4).getLsbD n.val then invalidate (x.slots.get n) else x.slots.get n) =
      x.slots := Quad.ext_get fun n => by simp
  unfold damageSlots
  rw [hslots]

/-- Two commands, the second a pulse period, against one step that ends with the same pulse period. -/
theorem pulse_after {c : Instr} {s x : State} (hc : exec c s = .next (settleLines x))
    (hs : step s = .next (settleLines (takeUpDuty x))) :
    ∃ t u, exec c s = .next t ∧ exec .trimPulsePeriod t = .next u ∧ step s = .next u :=
  ⟨_, _, hc, congrArg Host.Outcome.next (settleLines_takeUpDuty x), hs⟩

/-- Settles O3, phase by phase. -/
theorem idleStepIsOneMillisecond : Obligations.IdleStepIsOneMillisecond := by
  unfold Obligations.IdleStepIsOneMillisecond
  intro s hq
  have hstep := step_of_idle hq
  refine ⟨?off, ?startUp, ?autoload, ?quiet, ?timer, ?expiry, ?save, ?erase⟩
  case off =>
    intro hphase
    rw [hstep]
    unfold tick
    obtain h | h := hphase <;> rw [h]
  case startUp =>
    intro hphase hms
    have ht : tickStartUp s = { s with unit := { s.unit with startUpMs := s.unit.startUpMs + 1 } } := if_neg (by omega)
    rw [hstep, tick_of_startUp hphase, ht]
    exact next_settled (takeUpDuty_of_phase (.inl hphase))
  case autoload =>
    intro hphase hms
    have ht : tickStartUp s = autoload s := if_pos (by omega)
    refine pulse_after (x := autoload s) ?_ (by rw [hstep, tick_of_startUp hphase, ht])
    show done (if s.unit.phase = .startUp then autoload (withStore (damageSlots 0) s) else s) = _
    rw [if_pos hphase, withStore, damageSlots_zero]
    rfl
  case quiet =>
    intro hphase htimer hstore
    rw [hstep, tick_of_running hphase, tickLoad_of_none htimer, tickStore_of_idle hstore, takeUpDuty_of_phase (.inr hphase)]
  case timer =>
    intro c hphase htimer htime hstore
    have ht : tickLoad s = { s with stager := { s.stager with timer := some ⟨c.elapsed + 1, c.timeout⟩ } } := by
      unfold tickLoad
      rw [htimer]
      exact if_neg (by omega)
    rw [hstep, tick_of_running hphase, ht, tickStore_of_idle (by exact hstore)]
    exact next_settled (takeUpDuty_of_phase (.inr hphase))
  case expiry =>
    intro c hphase hloading htimer htime hstore
    have ht : tickLoad s = abandonWithEvent s := by
      unfold tickLoad
      rw [htimer]
      exact if_pos htime
    refine pulse_after (x := abandonWithEvent s) ?_ ?_
    · show done (if s.stager.loading then abandonWithEvent s else s) = _
      rw [if_pos hloading]
      rfl
    · rw [hstep, tick_of_running hphase, ht, tickStore_of_idle (s := abandonWithEvent s) hstore]
  case save =>
    intro n copy m hphase htimer hstore
    have hbusy := tickStore_of_busy (s := s) (by rw [hstore]; exact fun h => (by cases h))
    rw [show storeTime s.store.state = 60 by rw [hstore]; rfl] at hbusy
    refine ⟨fun htime => ?_, fun htime => ?_⟩
    · rw [hstep, tick_of_running hphase, tickLoad_of_none htimer, hbusy, if_neg (by omega)]
      exact next_settled (takeUpDuty_of_phase (.inr hphase))
    · refine pulse_after (x := withStore completeStore s) ?_ ?_
      · show done (if isSaving s.store.state then withStore completeStore s else s) = _
        rw [hstore]
        rfl
      · rw [hstep, tick_of_running hphase, tickLoad_of_none htimer, hbusy, if_pos (by omega)]
  case erase =>
    intro n hphase htimer hstore
    have hbusy := tickStore_of_busy (s := s) (by rw [hstore]; exact fun h => (by cases h))
    rw [show storeTime s.store.state = 40 by rw [hstore]; rfl] at hbusy
    refine ⟨fun htime => ?_, fun htime => ?_⟩
    · rw [hstep, tick_of_running hphase, tickLoad_of_none htimer, hbusy, if_neg (by omega)]
      exact next_settled (takeUpDuty_of_phase (.inr hphase))
    · refine pulse_after (x := withStore completeStore s) ?_ ?_
      · show done (if isErasing s.store.state then withStore completeStore s else s) = _
        rw [hstore]
        rfl
      · rw [hstep, tick_of_running hphase, tickLoad_of_none htimer, hbusy, if_pos (by omega)]

/-! ### The state after reset -/

theorem tablesWhole_reset : TablesWhole State.reset := by
  refine ⟨factoryProfile_whole.1, factoryProfile_whole.2, List.length_replicate, Nat.zero_le _, fun p hp => ?_⟩
  rw [List.mem_singleton.mp hp]
  exact factoryProfile_whole

theorem settingsInRange_reset : SettingsInRange State.reset := by
  refine ⟨factoryProfile_allowed, fun p hp => ?_⟩
  rw [List.mem_singleton.mp hp]
  exact factoryProfile_allowed

theorem valuesInRange_reset : ValuesInRange State.reset :=
  ⟨by decide, by decide, by decide, by decide, by decide, by decide, by decide⟩

/-- Settles O60, invariant by invariant. -/
theorem resetMeetsTheInvariants : Obligations.ResetMeetsTheInvariants := by
  unfold Obligations.ResetMeetsTheInvariants
  exact ⟨entriesShaped_nil, queuesBounded_reset, passCoherent_reset, reset_wf, stepsInRange_reset, skewBounded_reset,
    delaysWhole_reset, tablesWhole_reset, settingsInRange_reset, valuesInRange_reset⟩

end Sys2Proof.Machine
end

section
/-! The directives that report, address and reset the unit, and LOAD BEGIN (R11, R150, R151, R162 to R165, R170, R177). -/

namespace Sys2Proof.Machine

/-! ### IDENTIFY, STATUS and SET ADDRESS (R162 to R165) -/

theorem addressByte_eq (a : BitVec 6) : addressByte a = BitVec.ofNat 8 a.toNat := by
  unfold addressByte
  exact BitVec.eq_of_toNat_eq (by rw [BitVec.toNat_setWidth, BitVec.toNat_ofNat])

theorem addressIn_eq (a : Byte) : addressIn a = BitVec.ofNat 6 a.toNat := by
  unfold addressIn
  exact BitVec.eq_of_toNat_eq (by rw [BitVec.toNat_setWidth, BitVec.toNat_ofNat])

theorem replySetAddress_of_le {a : Byte} (s : State) (ha : a.toNat ≤ 62) : replySetAddress a s =
    ({ s with unit := { s.unit with unitAddress := BitVec.ofNat 6 a.toNat } },
      ⟨.ok, [BitVec.ofNat 8 s.unit.unitAddress.toNat, a]⟩) := by
  rw [replySetAddress, if_pos ha, addressIn_eq, addressByte_eq]

theorem replySetAddress_of_gt {a : Byte} (s : State) (ha : 63 ≤ a.toNat) : replySetAddress a s =
    (s, ⟨.range, [BitVec.ofNat 8 s.unit.unitAddress.toNat, BitVec.ofNat 8 s.unit.unitAddress.toNat]⟩) := by
  rw [replySetAddress, if_neg (by omega), addressByte_eq]

theorem exec_unknownDirective_of_unknown {h : Header} {body : List Byte} (s : State)
    (hunknown : directiveLength (body.headD 0).toNat = none) :
    exec (.unknownDirective h body) s = done (takeDirective h body replyUnknown s) := by
  show execUnknownDirective h body s = _
  unfold execUnknownDirective
  rw [directiveKind, hunknown]
  rfl

/-- Settles O25: the two replies spell the state's items and change nothing. -/
theorem identifyAndStatusReportTheState : Obligations.IdentifyAndStatusReportTheState := by
  unfold Obligations.IdentifyAndStatusReportTheState
  refine fun h s hx => ⟨?identify, ?status⟩
  case identify =>
    refine done_takeDirective_of_executes hx (body := [0x01]) (act := replyIdentify) ?_
    have hcause : byteOf (resetCauseCode s.unit.resetCause) = match s.unit.resetCause with
        | .power => 0
        | .line => 1
        | .directive => 2 := by cases s.unit.resetCause <;> rfl
    have houtcome : byteOf (autoloadCode s.unit.autoload) = match s.unit.autoload with
        | .default => 0
        | .factory => 1
        | .builtin => 2 := by cases s.unit.autoload <;> rfl
    rw [replyIdentify, addressByte_eq, addressByte_eq, show bytesBE 2 0x0A43 = [0x0A, 0x43] by decide,
      show bytesBE 2 512 = [2, 0] by decide, show bytesBE 2 1024 = [4, 0] by decide,
      show (arrived h [0x01] s).unit = s.unit from rfl, hcause, houtcome]
    simp only [List.append_assoc, List.cons_append, List.nil_append] <;> rfl
  case status =>
    refine done_takeDirective_of_executes hx (body := [0x02]) (act := replyStatus) ?_
    have hloading : byteOf (boolCode s.stager.loading) = if s.stager.loading then 1 else 0 := by
      cases s.stager.loading <;> rfl
    have hrunning : byteOf (boolCode s.intake.running) = if s.intake.running then 1 else 0 := by
      cases s.intake.running <;> rfl
    have hinstall : byteOf (installCode s.stager.install) = match s.stager.install with
        | .none => 0
        | .load _ => 1
        | .recall _ => 2 := by cases s.stager.install <;> rfl
    have hstore : byteOf (storeCode s.store.state) = match s.store.state with
        | .idle => 0
        | .saving _ _ _ => 1
        | .erasing _ => 2 := by cases s.store.state <;> rfl
    have htransport : byteOf (transportCode s.intake.transport) = match s.intake.transport with
        | .stop => 0
        | .play => 1
        | .spool => 2
        | .pause => 3 := by cases s.intake.transport <;> rfl
    rw [replyStatus, show (arrived h [0x02] s).stager = s.stager from rfl, show (arrived h [0x02] s).store = s.store from rfl,
      show (arrived h [0x02] s).intake = s.intake from rfl, hloading, hrunning, hinstall, hstore, htransport]
    simp only [Quad.toList, List.map_cons, List.map_nil, List.append_assoc, List.cons_append, List.nil_append] <;> rfl

/-- Settles O26: the address is replaced within its range, and an unknown kind is answered without a result. -/
theorem setAddressAndUnknownKinds : Obligations.SetAddressAndUnknownKinds := by
  unfold Obligations.SetAddressAndUnknownKinds
  refine fun h s hx => ⟨fun a ha => ?replaced, fun a ha => ?refused, fun body hwf => ?unknown⟩
  case replaced => exact done_takeDirective_of_executes hx (replySetAddress_of_le _ ha)
  case refused => exact done_takeDirective_of_executes hx (replySetAddress_of_gt _ ha)
  case unknown =>
    rw [exec_unknownDirective_of_unknown s (by
      simp only [Instr.wellFormed, Bool.and_eq_true, Option.isNone_iff_eq_none] at hwf
      exact hwf.2)]
    exact done_takeDirective_of_executes hx rfl

/-! ### LOAD BEGIN (R170) -/

theorem tableOfCode_of_le {n : Nat} (h : n ≤ 4) :
    tableOfCode n = if n = 4 then some .kernel else some (.eq (Fin.ofNat 4 n)) := by
  interval_cases n <;> rfl

theorem tableOfCode_of_gt {n : Nat} (h : 4 < n) : tableOfCode n = none := by
  unfold tableOfCode
  split <;> first | omega | rfl

/-- Settles O33, by the conditions of R170 in their order. -/
theorem loadBeginStartsALoad : Obligations.LoadBeginStartsALoad := by
  unfold Obligations.LoadBeginStartsALoad
  refine fun h table s hx => ⟨fun hcode => ?range, fun hcode hbusy => ?busy, fun hcode hidle hnone => ?begun⟩
  case range =>
    refine done_takeDirective_of_executes hx (body := [0x20, table]) (act := replyLoadBegin table) ?_
    rw [replyLoadBegin, tableOfCode_of_gt hcode]
    rfl
  case busy =>
    refine done_takeDirective_of_executes hx (body := [0x20, table]) (act := replyLoadBegin table) ?_
    have hb : (arrived h [0x20, table] s).stager.loading ∨ (arrived h [0x20, table] s).stager.install ≠ .none := hbusy
    rw [replyLoadBegin, tableOfCode_of_le hcode]
    split
    · next hnone => split_ifs at hnone
    · rw [if_pos hb]
      rfl
  case begun =>
    refine done_takeDirective_of_executes hx (body := [0x20, table]) (act := replyLoadBegin table) ?_
    have hb : ¬ ((arrived h [0x20, table] s).stager.loading = true ∨ (arrived h [0x20, table] s).stager.install ≠ .none) := by
      rw [not_or, not_not]
      exact ⟨Bool.not_eq_true _ ▸ hidle, hnone⟩
    have hfour : table = 4 ↔ table.toNat = 4 := by
      rw [← BitVec.toNat_inj]
      rfl
    rw [replyLoadBegin, tableOfCode_of_le hcode]
    by_cases h4 : table.toNat = 4
    · rw [if_pos h4]
      simp only [if_neg hb, if_pos (hfour.mpr h4)]
      rfl
    · rw [if_neg h4]
      simp only [if_neg hb, if_neg (mt hfour.mp h4)]
      rfl

/-! ### SNAPSHOT COUNTERS (R150, R151) -/

/-- Settles O37: the snapshot is taken of the state the directive arrived in. -/
theorem snapshotCountersReportsAndClears : Obligations.SnapshotCountersReportsAndClears := by
  unfold Obligations.SnapshotCountersReportsAndClears
  refine fun h s hx => ⟨?kept, ?cleared, fun clear hclear => ?range⟩
  case kept => exact done_takeDirective_of_executes hx (body := [0x31, 0]) (act := replySnapshot 0) rfl
  case cleared =>
    refine ⟨_, done_takeDirective_of_executes hx (body := [0x31, 1]) (act := replySnapshot 1) rfl, rfl, ?_⟩
    exact fun x hx => List.eq_of_mem_replicate (n := 47) hx
  case range =>
    refine done_takeDirective_of_executes hx (body := [0x31, clear]) (act := replySnapshot clear) ?_
    have h0 : clear ≠ 0 := fun e => by simp [e] at hclear
    have h1 : clear ≠ 1 := fun e => by simp [e] at hclear
    rw [replySnapshot, if_neg h0, if_neg h1]

/-! ### RESET UNIT (R177) -/

theorem wouldExecute_of_executes {h : Header} {s : State} (hx : Executes h s) : wouldExecute h s = true := by
  obtain ⟨hrunning, haddr, hroom⟩ := hx
  simp [wouldExecute, receiving, hrunning, meantFor, broadcast, haddr, hroom]

theorem exec_resetUnit_of_up {h : Header} {s : State} (hup : s.link.link.d = .up) :
    exec (.resetUnit h) s = done (takeDirective h [0x51] replyResetUnit s) := by
  show done (if wouldExecute h s ∧ s.link.link.d = .down then _ else _) = _
  rw [if_neg fun hd => by simp [hup] at hd]
  rfl

theorem exec_resetUnit_of_down {h : Header} {s : State} (hx : Executes h s) (hdown : s.link.link.d = .down) :
    exec (.resetUnit h) s = done (unitReset .directive (takeDirective h [0x51] replyResetUnit s)) :=
  congrArg done (if_pos ⟨wouldExecute_of_executes hx, hdown⟩)

/-- A unit reset with the reset line released depends on the strap pins, the alive signals and the store alone. -/
theorem unitReset_of_released {s : State} (cause : ResetCause) (hline : s.unit.resetLine = false) :
    unitReset cause s = { State.reset with
      unit := { State.reset.unit with
        phase := .startUp, resetCause := cause, straps := s.unit.straps
        strapAddress := s.unit.straps.setWidth 6, unitAddress := s.unit.straps.setWidth 6 }
      link := { State.reset.link with
        alive := s.link.alive
        link := ⟨if s.link.alive.u then .up else .down, if s.link.alive.d then .up else .down⟩ }
      store := { s.store with state := .idle, elapsed := 0 }
      freeCount := s.freeCount
      pending := s.pending } := by
  unfold unitReset
  rw [hline]
  unfold resetBlocks
  rw [hline]
  rfl

/-- What a unit reset reads of a state. -/
def resetInputs (s : State) := (s.unit, s.link.alive, s.store, s.freeCount, s.pending)

theorem takeDirective_resetInputs (h : Header) (body : List Byte) (s : State) :
    resetInputs (takeDirective h body replyResetUnit s) = resetInputs s := by
  have hr : resetInputs (routed h body s) = resetInputs s := by rw [routed_eq_arrived]; rfl
  obtain ⟨-, e⟩ | ⟨-, -, e⟩ | ⟨-, -, e⟩ := takeDirective_cases h body replyResetUnit s
  · rw [e]
  · rw [e]
    obtain ⟨-, e⟩ | ⟨-, e⟩ := runDirective_cases (directiveKind body) h.tag replyResetUnit (routed h body s)
    · rw [e]; exact hr
    · rw [e]; exact hr
  · rw [e]; exact hr

/-- Settles O41: answered while Port D is UP, reset at once while it is DOWN, and reset as the answer's transmission
completes. -/
theorem resetUnitWaitsForItsAnswer : Obligations.ResetUnitWaitsForItsAnswer := by
  unfold Obligations.ResetUnitWaitsForItsAnswer
  refine fun h s => ⟨fun hx hup => ?waits, fun hx hdown hline => ?atOnce, fun x a rest hline hsending hqueue hkind => ?sent⟩
  case waits =>
    rw [exec_resetUnit_of_up hup]
    exact done_takeDirective_of_executes hx rfl
  case atOnce =>
    rw [exec_resetUnit_of_down hx hdown]
    obtain ⟨hunit, hrest⟩ := Prod.ext_iff.mp (takeDirective_resetInputs h [0x51] s)
    obtain ⟨halive, hrest⟩ := Prod.ext_iff.mp hrest
    obtain ⟨hstore, hrest⟩ := Prod.ext_iff.mp hrest
    obtain ⟨hfree, hpending⟩ := Prod.ext_iff.mp hrest
    dsimp only [resetInputs] at hunit halive hstore hfree hpending
    rw [unitReset_of_released .directive (by rw [hunit]; exact hline), hunit, halive, hstore, hfree, hpending]
    rfl
  case sent =>
    show done (completeTransmission s) = _
    rw [completeTransmission_of_resetAnswer hsending hqueue hkind, unitReset_of_released .directive (by exact hline)]
    rfl

end Sys2Proof.Machine
end

section
/-! Power, the reset line and the values of reset (R1, R11, R183, R185, R191); what is not received outside operation (R8); the
forward queues, Port U's transmitter and the arbiter (R14, R15, R152 to R155). -/

namespace Sys2Proof.Machine

/-! ### Power and the reset line -/

/-- A unit reset with the reset line asserted: every block at its reset value, the part held (R191). -/
theorem unitReset_of_asserted {s : State} (cause : ResetCause) (hline : s.unit.resetLine = true) :
    unitReset cause s = resetBlocks .held cause s := if_pos hline

/-- Settles O5: with the line released the unit starts up from the pins, else it is held. -/
theorem powerOnResetsTheUnit : Obligations.PowerOnResetsTheUnit := by
  unfold Obligations.PowerOnResetsTheUnit
  refine fun straps s => ⟨fun hline => ?released, fun hline => ?asserted⟩
  case released =>
    show done (unitReset .power (setStraps straps s)) = _
    rw [unitReset_of_released .power (by exact hline)]
    rfl
  case asserted =>
    show done (unitReset .power (setStraps straps s)) = _
    rw [unitReset_of_asserted .power (by exact hline)]
    unfold resetBlocks
    rw [show (setStraps straps s).unit.resetLine = true from hline]
    rfl

/-- Settles O6, by the phase in which the line moves. -/
theorem resetLineHoldsAndReleases : Obligations.ResetLineHoldsAndReleases := by
  unfold Obligations.ResetLineHoldsAndReleases
  refine fun straps s => ⟨fun hphase => ?asserted, fun hphase => ?unpowered, fun hphase => ?released, fun hphase => ?unheld, ?lost⟩
  case asserted =>
    show done (if s.unit.phase = .off then setResetLine true s else unitReset .line (setResetLine true s)) = _
    rw [if_neg hphase, unitReset_of_asserted .line rfl]
    rfl
  case unpowered =>
    show done (if s.unit.phase = .off then setResetLine true s else unitReset .line (setResetLine true s)) = _
    rw [if_pos hphase]
    rfl
  case released =>
    show done (if s.unit.phase = .held then unitReset .line (setStraps straps (setResetLine false s))
      else setStraps straps (setResetLine false s)) = _
    rw [if_pos hphase, unitReset_of_released .line rfl]
    rfl
  case unheld =>
    show done (if s.unit.phase = .held then unitReset .line (setStraps straps (setResetLine false s))
      else setStraps straps (setResetLine false s)) = _
    rw [if_neg hphase]
    rfl
  case lost => rfl

/-- Settles O7: the values of `State.reset`, block by block. -/
theorem resetLeavesTheStatedValues : Obligations.ResetLeavesTheStatedValues := by
  unfold Obligations.ResetLeavesTheStatedValues
  have hside {α : Type} (v : α) (d : Side) : (PerSide.both v).get d = v := PerSide.get_both v d
  have hlane {α : Type} (v : α) (l : Fin 4) : (Quad.fill v).get l = v := Quad.get_fill v l
  have hhistory : ∀ l p, historyAt State.reset l p = ⟨0, 0, 0, false, false, true⟩ := fun l p => by
    rw [historyAt, State.reset, hlane]
    rfl
  exact ⟨hside _, hside _, hlane _, hlane _, hlane _, hside _, fun d => ⟨hside _ d, hside _ d⟩, hhistory, rfl, rfl, hside _, rfl,
    rfl, rfl, rfl, rfl, fun c hc => List.eq_of_mem_replicate (n := 47) hc, rfl, rfl, rfl, rfl, rfl, rfl, rfl, rfl, rfl, rfl, rfl,
    rfl, rfl, rfl, rfl, rfl, fun _ _ _ => rfl, rfl, rfl, rfl, rfl, rfl, rfl, rfl⟩

/-! ### Outside operation (R8, R183, R191) -/

theorem receiving_of_not_running {s : State} (h : s.unit.phase ≠ .running) : receiving s = false := beq_eq_false_iff_ne.mpr h

theorem takeDirective_of_not_receiving {s : State} (h : receiving s = false) (x : Header) (body : List Byte)
    (act : State → State × Reply) : takeDirective x body act s = s := by
  unfold takeDirective
  rw [h]
  rfl

theorem deliver_of_not_receiving {s : State} (h : receiving s = false) (p : Port) (bytes : List Byte) :
    deliver p bytes s = done s := by
  unfold deliver
  rw [h]
  rfl

/-- A command that a parcel spells changes nothing outside operation. -/
theorem exec_of_not_receiving {s : State} (h : receiving s = false) (c : Instr) (hc : (parcelOf c).isSome = true) :
    exec c s = done s := by
  have hd (x : Header) (body : List Byte) (act : State → State × Reply) : done (takeDirective x body act s) = done s :=
    congrArg done (takeDirective_of_not_receiving h x body act)
  have hif (t : State) : done (if receiving s then t else s) = done s := by
    rw [h]
    rfl
  cases c with
  | rawParcel first frames => exact hif _
  | deckParcel x code => exact hif _
  | converterReport x body => exact hif _
  | directiveForOtherUnit x body =>
    show execDirectiveForOtherUnit x body s = _
    unfold execDirectiveForOtherUnit
    split
    · exact deliver_of_not_receiving h _ _
    · exact hd x body replyUnknown
  | unknownDirective x body =>
    show execUnknownDirective x body s = _
    unfold execUnknownDirective
    split
    · exact deliver_of_not_receiving h _ _
    · exact hd x body replyUnknown
  | resetUnit x =>
    show done (if wouldExecute x s ∧ s.link.link.d = .down then _ else _) = _
    rw [if_neg fun hw => by simp [wouldExecute, h] at hw]
    exact hd x [0x51] replyResetUnit
  | powerOn | resetLineAssert | resetLineRelease | autoloadComplete | portGoesUp | portGoesDown | parcelCheckFailed
  | upstreamTransmitStart | upstreamForwardTransmitted | arbiterChoice | parcelTransmitted | loadTimerExpiry
  | profileSaveComplete | profileEraseComplete | parcelDroppedDuringStartUp | powerLoss | trimPulsePeriod => cases hc
  | _ => exact hd _ _ _

/-- Settles O9. -/
theorem nothingIsReceivedBeforeOperation : Obligations.NothingIsReceivedBeforeOperation := by
  unfold Obligations.NothingIsReceivedBeforeOperation
  intro s hphase
  have h := receiving_of_not_running hphase
  exact ⟨fun p bytes => deliver_of_not_receiving h p bytes, fun p bytes => deliver_of_not_receiving h p bytes,
    fun c hc => exec_of_not_receiving h c hc⟩

/-! ### Forwarding (R14, R15) -/

theorem offerUpstream_eq (p : Parcel) (s : State) : offerUpstream p s = { s with
    counters := { s.counters with
      forwardedDropped :=
        if s.link.upstream.length < 4 then s.counters.forwardedDropped else countUp s.counters.forwardedDropped 1 }
    link := { s.link with
      upstream := if s.link.upstream.length < 4 then s.link.upstream ++ [p] else s.link.upstream } } := by
  unfold offerUpstream
  split <;> rfl

/-- A directive for another unit is counted and offered upstream, and nothing is executed (R12). -/
theorem takeDirective_of_not_meant {h : Header} {s : State} (hrunning : s.unit.phase = .running)
    (hmeant : meantFor s.unit.unitAddress h.addr = false) (body : List Byte) (act : State → State × Reply) :
    takeDirective h body act s = routed h body s := by
  obtain ⟨hr, -⟩ | ⟨-, hm, -⟩ | ⟨-, -, e⟩ := takeDirective_cases h body act s
  · simp [receiving, hrunning] at hr
  · simp [hmeant] at hm
  · exact e

/-- Settles O13: each queue takes the parcel at its tail or drops and counts it; Port U's transmitter sends the head. -/
theorem forwardedParcelsJoinTheirQueuesInOrder : Obligations.ForwardedParcelsJoinTheirQueuesInOrder := by
  unfold Obligations.ForwardedParcelsJoinTheirQueuesInOrder
  refine ⟨fun h body s hrunning => ?report, fun h body s hrunning hown hall => ?directive, fun x rest s hqueue =>
    ⟨fun hup hidle => ?begins, fun hno => ?waits, fun hsending => ?leaves⟩⟩
  case report =>
    show done (if receiving s then offerDownstream ⟨kindReport, h.addr, h.tag, body⟩ (countReceived .U s) else s) = _
    rw [show receiving s = true from beq_iff_eq.mpr hrunning, if_pos rfl, offerDownstream_eq]
    rfl
  case directive =>
    have hmeant : meantFor s.unit.unitAddress h.addr = false := by simp [meantFor, broadcast, hown, hall]
    show execDirectiveForOtherUnit h body s = _
    unfold execDirectiveForOtherUnit
    rw [hmeant, if_neg Bool.false_ne_true, takeDirective_of_not_meant hrunning hmeant, routed, if_neg hown, offerUpstream_eq]
    rfl
  case begins =>
    show done (if s.link.link.u = .up ∧ s.link.sendingU = none then _ else s) = _
    rw [if_pos ⟨hup, hidle⟩, hqueue]
    rfl
  case waits =>
    show done (if s.link.link.u = .up ∧ s.link.sendingU = none then _ else s) = _
    rw [if_neg fun ⟨hup, hidle⟩ => hno.elim (fun hdown => by simp [hup] at hdown) fun hne => hne hidle]
    rfl
  case leaves =>
    obtain ⟨y, hy⟩ := Option.ne_none_iff_exists'.mp hsending
    show done (completeUpstream s) = _
    unfold completeUpstream
    rw [hy, hqueue]
    rfl

/-! ### The arbiter (R152 to R155) -/

theorem completeTransmission_of_sending {s : State} {x : Source} {p : Parcel} (h : s.arbiter.sending = some ⟨x, p⟩)
    (hreset : sendingReset s x = false) :
    completeTransmission s = removeHead x { s with arbiter := arbiterAfter x s.arbiter } := by
  unfold completeTransmission
  rw [h]
  dsimp only
  rw [hreset]
  rfl

/-- Settles O16: the head of the source that was sent leaves it, and the arbiter owes as that source has it. -/
theorem transmittedHeadsLeaveTheirSources : Obligations.TransmittedHeadsLeaveTheirSources := by
  unfold Obligations.TransmittedHeadsLeaveTheirSources
  intro s
  have hexec : exec .parcelTransmitted s = done (completeTransmission s) := rfl
  refine ⟨fun hnone => ?none, fun d x hx => ?clean, fun x a rest hx hq hkind => ?answer, fun x n rest hx hq => ?notice,
    fun x c rest hx hq => ?cue, fun x y rest hx hq => ?forwarded, fun x r rest hx hq => ?damage⟩
  case none =>
    rw [hexec, completeTransmission, hnone]
    rfl
  case clean =>
    rw [exec_parcelTransmitted_of_clean hx]
    rw [show s.cleanQueues.modify d List.tail = s.cleanQueues.set d (s.cleanQueues.get d).tail from rfl]
  case answer =>
    have hno : sendingReset s .directive = false := by
      simp only [sendingReset, hq, List.head?_cons, Option.map_some, kindResetUnit, beq_self_eq_true, Bool.true_and]
      exact beq_eq_false_iff_ne.mpr fun e => hkind (Option.some.inj e)
    rw [hexec, completeTransmission_of_sending hx hno, removeHead]
    dsimp only
    rw [hq]
    rfl
  case notice =>
    rw [hexec, completeTransmission_of_sending hx rfl, removeHead]
    dsimp only
    rw [hq]
    rfl
  case cue =>
    rw [hexec, completeTransmission_of_sending hx rfl, removeHead]
    dsimp only
    rw [hq]
    rfl
  case forwarded =>
    rw [hexec, completeTransmission_of_sending hx rfl, removeHead]
    dsimp only
    rw [hq]
    rfl
  case damage =>
    have hpause : (s.lines.pauseRequest && !(!(r :: rest).isEmpty && (r :: rest).tail.length == 16)) =
        if rest.length = 16 then false else s.lines.pauseRequest := by
      by_cases h16 : rest.length = 16 <;> simp [h16]
    rw [hexec, completeTransmission_of_sending hx rfl, removeHead, removeDamage]
    dsimp only
    rw [hq, hpause]
    rfl

/-- The head of a source with the parcel it is sent as. -/
def sendingOf (s : State) (x : Source) : Option Sending := (headParcel s x).map fun p => ⟨x, p⟩

/-- The head of the highest-ranked non-clean source is that of the first in rank that holds a parcel (R154). -/
theorem rankedHead_eq (s : State) : rankedHead s = nonCleanSources.findSome? (sendingOf s) := by
  have hdamage (r : DamageRecord) : byteOf (bitAt r.gap 0 + bitAt r.cut 1) =
      BitVec.ofNat 8 ((if r.gap then 1 else 0) + (if r.cut then 2 else 0)) := by
    cases r.gap <;> cases r.cut <;> rfl
  have hcue (c : Cue) : [byteOf (boolCode c.isEnd), byteOf (sideCode c.side)] =
      [if c.isEnd then 1 else 0, if c.side = .A then 0 else 1] := by
    cases c.isEnd <;> cases c.side <;> rfl
  unfold rankedHead nonCleanSources
  simp only [List.findSome?_cons, List.findSome?_nil, id_eq]
  simp only [sendingOf, headParcel, originate_eq_originated, Option.map_map, Function.comp_def, answerBody, noticeBody, cueBody,
    damageBody, hdamage, hcue]
  rfl

theorem findSome?_sendingOf (s : State) (xs : List Source) :
    xs.findSome? (sendingOf s) = (xs.find? (holdsParcel s)).bind (sendingOf s) := by
  induction xs with
  | nil => rfl
  | cons x rest ih =>
    rw [List.findSome?_cons, List.find?_cons]
    cases hx : headParcel s x <;> simp [sendingOf, holdsParcel, hx, ih]

theorem makeChoice_of_none {s : State} (h : arbiterPick s = none) : makeChoice s = s := by
  unfold makeChoice
  rw [h]
  exact ite_self s

theorem cleanHolds_iff (s : State) : CleanHolds s ↔ ∃ d, s.cleanQueues.get d ≠ [] :=
  (exists_side_iff (p := fun d => s.cleanQueues.get d ≠ [])).symm

theorem cleanChoice_of_empty {s : State} (h : ¬ CleanHolds s) : cleanChoice s = none := by
  rw [cleanHolds_iff, not_exists] at h
  unfold cleanChoice
  rw [List.find?_eq_none]
  intro x hx
  have hclean : ∃ d, x = .clean d := by
    obtain rfl | hx := List.mem_cons.mp hx
    · exact ⟨_, rfl⟩
    · exact ⟨_, List.mem_singleton.mp hx⟩
  obtain ⟨d, rfl⟩ := hclean
  rw [holdsParcel_clean_iff]
  exact h d

/-- The arbiter takes the highest-ranked non-clean head where one is owed or no clean head waits (R153). -/
theorem exec_arbiterChoice_of_ranked {s : State} (hup : s.link.link.d = .up) (hidle : s.arbiter.sending = none)
    (h : (s.arbiter.owed = true ∧ NonCleanHolds s) ∨ (¬ CleanHolds s ∧ NonCleanHolds s)) :
    (rankedHead s).isSome = true ∧
      exec .arbiterChoice s = .next (settleLines { s with arbiter := { s.arbiter with sending := rankedHead s } }) := by
  have hholds : NonCleanHolds s := h.elim (·.2) (·.2)
  obtain ⟨x, hx⟩ : ∃ x, nonCleanChoice s = some x :=
    Option.ne_none_iff_exists'.mp fun hnone => (nonCleanChoice_eq_none_iff s).mp hnone hholds
  have hpick : arbiterPick s = some x := by
    unfold arbiterPick
    split
    · rw [hx, Option.some_or]
    · next howed =>
      obtain ⟨ho, -⟩ | ⟨hempty, -⟩ := h
      · exact absurd ho howed
      · rw [cleanChoice_of_empty hempty, Option.none_or, hx]
  have hranked : rankedHead s = sendingOf s x := by
    rw [rankedHead_eq, findSome?_sendingOf]
    exact congrArg (·.bind (sendingOf s)) hx
  have hsome : holdsParcel s x = true := List.find?_some (p := holdsParcel s) hx
  refine ⟨by rw [hranked, sendingOf, Option.isSome_map]; exact hsome, ?_⟩
  show done (makeChoice s) = _
  rw [makeChoice_of_pick hup hidle hpick, hranked]
  rfl

/-- Settles O14, step by step of R153. -/
theorem arbiterChoosesByTheThreeSteps : Obligations.ArbiterChoosesByTheThreeSteps := by
  unfold Obligations.ArbiterChoosesByTheThreeSteps
  intro s
  refine ⟨fun hno => ?none, fun hup hidle => ⟨fun hother hclean => ?empty, fun h => exec_arbiterChoice_of_ranked hup hidle h,
    fun hfree hclean => ?clean⟩⟩
  case none =>
    show done (if s.link.link.d = .up ∧ s.arbiter.sending = none then _ else s) = _
    rw [if_neg fun ⟨hup, hidle⟩ => hno.elim (fun hdown => by simp [hup] at hdown) fun hne => hne hidle]
    rfl
  case empty =>
    have hpick : arbiterPick s = none := by
      unfold arbiterPick
      rw [cleanChoice_of_empty hclean, (nonCleanChoice_eq_none_iff s).mpr hother]
      exact ite_self _
    show done (makeChoice s) = _
    rw [makeChoice_of_none hpick]
    rfl
  case clean =>
    by_cases hturn : s.cleanQueues.get s.arbiter.nextSide ≠ []
    · obtain ⟨p, rest, hq⟩ := List.exists_cons_of_ne_nil hturn
      rw [if_pos hturn, cleanHead, hq, exec_arbiterChoice_of_turn hup hidle hfree hq (.inl rfl)]
      rfl
    · have hother : s.cleanQueues.get s.arbiter.nextSide.other ≠ [] := by
        obtain ⟨d, hd⟩ := (cleanHolds_iff s).mp hclean
        by_cases hds : s.arbiter.nextSide = d
        · exact absurd (hds ▸ hd) hturn
        · rwa [← eq_other_of_ne (Ne.symm hds)]
      obtain ⟨p, rest, hq⟩ := List.exists_cons_of_ne_nil hother
      rw [if_neg hturn, cleanHead, hq, exec_arbiterChoice_of_turn hup hidle hfree hq
        (.inr (by rw [other_other]; exact not_not.mp hturn))]
      rfl

end Sys2Proof.Machine
end

section
/-! Parcels as bytes (12.1 to 12.4, R193): numbers read back from their bytes, the receiver's seven tests (R6), and the command
a good parcel spells. -/

namespace Sys2Proof.Machine

/-! ### Numbers as bytes (R193) -/

@[simp] theorem length_bytesBE (k v : Nat) : (bytesBE k v).length = k := by
  induction k with
  | zero => rfl
  | succ k ih => rw [bytesBE, List.length_cons, ih]

theorem natBE_cons (b : Byte) (bs : List Byte) : natBE (b :: bs) = b.toNat * 256 ^ bs.length + natBE bs := by
  have hfold : ∀ (bs : List Byte) (acc : Nat), bs.foldl (fun acc b => acc * 256 + b.toNat) acc = acc * 256 ^ bs.length + natBE bs := by
    intro bs
    induction bs with
    | nil => intro acc; simp [natBE]
    | cons c rest ih =>
      intro acc
      have hnat : natBE (c :: rest) = c.toNat * 256 ^ rest.length + natBE rest := by
        rw [natBE, List.foldl_cons, ih]
        ring
      rw [List.foldl_cons, ih, hnat, List.length_cons, pow_succ]
      ring
  rw [natBE, List.foldl_cons, hfold]
  simp

/-- A number is read back from its bytes, but for what lies above them. -/
theorem natBE_bytesBE (k v : Nat) : natBE (bytesBE k v) = v % 256 ^ k := by
  induction k with
  | zero => simp [bytesBE, natBE, Nat.mod_one]
  | succ k ih =>
    rw [bytesBE, natBE_cons, ih, length_bytesBE, BitVec.toNat_ofNat, show 2 ^ 8 = 256 from rfl, pow_succ, Nat.mod_mul]
    ring

/-! ### A word within a body -/

theorem wordAt_drop (w : Nat) (bs : List Byte) (start off count : Nat) :
    wordAt w bs (start + off) count = wordAt w (bs.drop start) off count := by
  rw [wordAt, wordAt, List.drop_drop]

theorem wordAt_zero {w k : Nat} (hw : w = 8 * k) (v : BitVec w) (post : List Byte) :
    wordAt w (bytesBE k v.toNat ++ post) 0 k = v := by
  have hpow : 256 ^ k = 2 ^ w := by rw [hw, show 256 = 2 ^ 8 from rfl, ← pow_mul]
  rw [wordAt, List.drop_zero, List.take_left' (length_bytesBE k _), natBE_bytesBE, hpow, Nat.mod_eq_of_lt v.isLt,
    BitVec.ofNat_toNat, BitVec.setWidth_eq]

/-- A word of a body stands where its bytes do. -/
theorem wordAt_append {w k start : Nat} {pre : List Byte} (hpre : pre.length = start) (hw : w = 8 * k) (v : BitVec w)
    (post : List Byte) : wordAt w (pre ++ (bytesBE k v.toNat ++ post)) start k = v := by
  have h := wordAt_drop w (pre ++ (bytesBE k v.toNat ++ post)) start 0 k
  rw [Nat.add_zero, List.drop_left' hpre] at h
  rw [h, wordAt_zero hw]

theorem wordAt_last {w k start : Nat} {pre : List Byte} (hpre : pre.length = start) (hw : w = 8 * k) (v : BitVec w) :
    wordAt w (pre ++ bytesBE k v.toNat) start k = v := by
  have h := wordAt_append hpre hw v []
  rwa [List.append_nil] at h

theorem wordAt_byte {start : Nat} {pre : List Byte} (hpre : pre.length = start) (b : Byte) (post : List Byte) :
    wordAt 8 (pre ++ b :: post) start 1 = b := by
  rw [wordAt, List.drop_left' hpre]
  show BitVec.ofNat 8 (natBE [b]) = b
  rw [natBE_cons]
  simp [natBE]

/-! ### Repeated fields of one length -/

/-- The fields of a list, all of one length, stand at the multiples of it. -/
theorem flatMap_drop {α : Type} {g : α → List Byte} {n : Nat} (hg : ∀ x, (g x).length = n) (xs : List α) (i : Nat) :
    (xs.flatMap g).drop (n * i) = (xs.drop i).flatMap g := by
  induction xs generalizing i with
  | nil => simp
  | cons x rest ih =>
    cases i with
    | zero => simp
    | succ i =>
      rw [List.flatMap_cons, List.drop_succ_cons, ← ih, Nat.mul_succ, Nat.add_comm, ← List.drop_drop, List.drop_left' (hg x)]

theorem flatMap_drop_getElem {α : Type} {g : α → List Byte} {n : Nat} (hg : ∀ x, (g x).length = n) (xs : List α) (i : Nat)
    (hi : i < xs.length) : ∃ rest, (xs.flatMap g).drop (n * i) = g xs[i] ++ rest := by
  rw [flatMap_drop hg, List.drop_eq_getElem_cons hi, List.flatMap_cons]
  exact ⟨_, rfl⟩

/-! ### The frames of a RAW body and the words of a chunk (12.3, 12.4) -/

theorem laneSampleAt_drop (body : List Byte) (start : Nat) : laneSampleAt body start = laneSampleAt (body.drop start) 0 := by
  unfold laneSampleAt
  rw [← wordAt_drop, ← wordAt_drop, ← wordAt_drop, ← wordAt_drop]
  simp

theorem laneSampleAt_zero (x : LaneSample) (rest : List Byte) : laneSampleAt (laneSampleBytes x ++ rest) 0 = x := by
  have hsample : wordAt 24 (laneSampleBytes x ++ rest) 0 3 = x.sample := by
    rw [laneSampleBytes, List.append_assoc, List.append_assoc]
    exact wordAt_zero rfl _ _
  have hstamp : wordAt 24 (laneSampleBytes x ++ rest) 3 3 = x.stamp := by
    rw [laneSampleBytes, List.append_assoc, List.append_assoc]
    exact wordAt_append (length_bytesBE 3 _) rfl _ _
  have hlevel : wordAt 8 (laneSampleBytes x ++ rest) 6 1 = x.level := by
    rw [laneSampleBytes, List.append_assoc]
    exact wordAt_byte (by simp) _ _
  have hvalid : wordAt 8 (laneSampleBytes x ++ rest) 7 1 = if x.valid then 1 else 0 := by
    have happ : laneSampleBytes x ++ rest = (bytesBE 3 x.sample.toNat ++ bytesBE 3 x.stamp.toNat ++ [x.level]) ++
        (if x.valid then 1 else 0) :: rest := by simp [laneSampleBytes]
    rw [happ]
    exact wordAt_byte (by simp) _ _
  unfold laneSampleAt
  rw [hsample, show 0 + 3 = 3 from rfl, hstamp, show 0 + 6 = 6 from rfl, hlevel, show 0 + 7 = 7 from rfl, hvalid]
  have hbit : (if x.valid then (1 : Byte) else 0).getLsbD 0 = x.valid := by cases x.valid <;> rfl
  rw [hbit]

theorem length_laneSampleBytes (x : LaneSample) : (laneSampleBytes x).length = 8 := by simp [laneSampleBytes]

theorem length_frameBytes (f : RawFrame) : (frameBytes f).length = 32 := by simp [frameBytes, length_laneSampleBytes]

/-- The lane records of a frame stand lane by lane. -/
theorem frameBytes_drop (f : RawFrame) (l : Lane) (rest : List Byte) :
    ∃ post, (frameBytes f ++ rest).drop (8 * l.val) = laneSampleBytes (f.get l) ++ post := by
  have hall : frameBytes f = [f.q0, f.q1, f.q2, f.q3].flatMap laneSampleBytes := by simp [frameBytes]
  have hlen : ([f.q0, f.q1, f.q2, f.q3].flatMap laneSampleBytes).length = 32 := hall ▸ length_frameBytes f
  obtain ⟨post, hpost⟩ := flatMap_drop_getElem length_laneSampleBytes [f.q0, f.q1, f.q2, f.q3] l.val l.isLt
  have hget : [f.q0, f.q1, f.q2, f.q3][l.val]'l.isLt = f.get l := by fin_cases l <;> rfl
  refine ⟨post ++ rest, ?_⟩
  rw [hall, List.drop_append_of_le_length (by omega), hpost, hget, List.append_assoc]

theorem framesOf_raw (first : BitVec 32) (frames : Vector RawFrame 16) :
    framesOf (bytesBE 4 first.toNat ++ frames.toList.flatMap frameBytes) = frames := by
  refine Vector.ext fun i hi => ?_
  obtain ⟨rest, hrest⟩ := flatMap_drop_getElem length_frameBytes frames.toList i (by simpa using hi)
  have hlane (l : Lane) : laneSampleAt (bytesBE 4 first.toNat ++ frames.toList.flatMap frameBytes) (4 + 8 * (4 * i + l.val)) =
      frames[i].get l := by
    obtain ⟨post, hpost⟩ := frameBytes_drop frames[i] l rest
    rw [laneSampleAt_drop, ← List.drop_drop, List.drop_left' (length_bytesBE 4 _),
      show 8 * (4 * i + l.val) = 32 * i + 8 * l.val by ring, ← List.drop_drop, hrest, Vector.getElem_toList, hpost,
      laneSampleAt_zero]
  rw [framesOf, Vector.getElem_ofFn]
  exact Quad.ext_get fun l => by rw [Quad.get_tabulate, hlane]

theorem wordsOf_chunk (index : Byte) (words : Vector (BitVec 32) 32) :
    wordsOf ([0x21, index] ++ words.toList.flatMap fun w => bytesBE 4 w.toNat) = words := by
  refine Vector.ext fun i hi => ?_
  obtain ⟨rest, hrest⟩ := flatMap_drop_getElem (g := fun w : BitVec 32 => bytesBE 4 w.toNat) (fun w => length_bytesBE 4 w.toNat)
    words.toList i (by simpa using hi)
  have h := wordAt_drop 32 ([0x21, index] ++ words.toList.flatMap fun w => bytesBE 4 w.toNat) (2 + 4 * i) 0 4
  rw [wordsOf, Vector.getElem_ofFn, ← Nat.add_zero (2 + 4 * i), h, ← List.drop_drop]
  show wordAt 32 ((words.toList.flatMap fun w => bytesBE 4 w.toNat).drop (4 * i)) 0 4 = _
  rw [hrest, wordAt_zero (w := 32) rfl, Vector.getElem_toList]

/-! ### The command a DIRECTIVE body spells (12.4) -/

theorem directiveCommand_unknown {body : List Byte} (h : Header) (hnone : directiveLength (directiveKind body).toNat = none) :
    directiveCommand h body = .unknownDirective h body := by
  unfold directiveCommand
  split
  all_goals first
    | rfl
    | (next hk => rw [hk] at hnone; cases hnone)

/-- The three words of a MAP INSERT body stand after its class and lane set (12.4). -/
theorem wordAt_mapInsert (cls lanes : Byte) (start stop param : BitVec 32) :
    let body := [0x10, cls, lanes] ++ bytesBE 4 start.toNat ++ bytesBE 4 stop.toNat ++ bytesBE 4 param.toNat
    wordAt 32 body 3 4 = start ∧ wordAt 32 body 7 4 = stop ∧ wordAt 32 body 11 4 = param := by
  refine ⟨?_, ?_, wordAt_last (k := 4) (by simp) rfl param⟩
  · rw [List.append_assoc, List.append_assoc]
    exact wordAt_append (k := 4) rfl rfl start _
  · rw [List.append_assoc ([0x10, cls, lanes] ++ _)]
    exact wordAt_append (k := 4) (by simp) rfl stop _

/-- A directive meant for the unit is read back from its body. -/
theorem directiveCommand_body {c : Instr} {h : Header} (hc : directiveHeader c = some h) (hwf : c.wellFormed = true)
    (hother : ∀ h body, c ≠ .directiveForOtherUnit h body) : directiveCommand h (directiveBody c) = c := by
  have hbyte (k b : Byte) (post : List Byte) : wordAt 8 (k :: b :: post) 1 1 = b := wordAt_byte (pre := [k]) rfl b post
  have hbyte' (k a b : Byte) (post : List Byte) : wordAt 8 (k :: a :: b :: post) 2 1 = b := wordAt_byte (pre := [k, a]) rfl b post
  have hword (k : Byte) (v : BitVec 32) : wordAt 32 (k :: bytesBE 4 v.toNat) 1 4 = v :=
    wordAt_last (pre := [k]) (k := 4) rfl rfl v
  have hhalf (k : Byte) (v : BitVec 16) : wordAt 16 (k :: bytesBE 2 v.toNat) 1 2 = v :=
    wordAt_last (pre := [k]) (k := 2) rfl rfl v
  cases c with
  | identify | status | mapClear | loadCancel | resetEngine | resetUnit => cases hc; rfl
  | setAddress x a => cases hc; exact congrArg _ (hbyte 0x03 a [])
  | readSetting x a => cases hc; exact congrArg _ (hbyte 0x04 a [])
  | writeSetting x a v =>
    cases hc
    have hv : wordAt 32 (0x05 :: a :: bytesBE 4 v.toNat) 2 4 = v := wordAt_last (pre := [0x05, a]) (k := 4) rfl rfl v
    exact congrArg₂ _ (hbyte 0x05 a _) hv
  | mapInsert x cls lanes start stop param =>
    cases hc
    obtain ⟨hstart, hstop, hparam⟩ := wordAt_mapInsert cls lanes start stop param
    show Instr.mapInsert h (wordAt 8 _ 1 1) (wordAt 8 _ 2 1) (wordAt 32 _ 3 4) (wordAt 32 _ 7 4) (wordAt 32 _ 11 4) = _
    rw [directiveBody, hstart, hstop, hparam]
    exact congrArg₂ (fun a b => Instr.mapInsert h a b start stop param) (hbyte 0x10 cls _) (hbyte' 0x10 cls lanes _)
  | mapDelete x i => cases hc; exact congrArg _ (hhalf 0x11 i)
  | mapRead x i => cases hc; exact congrArg _ (hhalf 0x12 i)
  | loadBegin x a => cases hc; exact congrArg _ (hbyte 0x20 a [])
  | loadChunk x a words => cases hc; exact congrArg₂ _ (hbyte 0x21 a _) (wordsOf_chunk a words)
  | loadEnd x v => cases hc; exact congrArg _ (hword 0x22 v)
  | ackEvents x v => cases hc; exact congrArg _ (hhalf 0x30 v)
  | snapshotCounters x a => cases hc; exact congrArg _ (hbyte 0x31 a [])
  | profileSave x a b => cases hc; exact congrArg₂ _ (hbyte 0x40 a _) (hbyte' 0x40 a b [])
  | profileRecall x a => cases hc; exact congrArg _ (hbyte 0x41 a [])
  | profileErase x a => cases hc; exact congrArg _ (hbyte 0x42 a [])
  | unknownDirective x body =>
    cases hc
    simp only [Instr.wellFormed, Bool.and_eq_true, Option.isNone_iff_eq_none] at hwf
    exact directiveCommand_unknown h hwf.2
  | directiveForOtherUnit x body => exact absurd rfl (hother x body)
  | _ => cases hc

end Sys2Proof.Machine
end

section
/-! The receiver's tests and what they do with a delivered sequence (R4 to R9): a good parcel is handed on as the command it
spells, a failing one is counted under the first test it fails. -/

namespace Sys2Proof.Machine

/-! ### A good parcel (R6, R7) -/

theorem length_content (x : Parcel) : x.content.length = 6 + x.body.length := by
  simp [Parcel.content]
  omega

/-- A kind some port receives is one of four (R3). -/
theorem kind_of_received {p : Port} {k : Byte} (h : kindReceivedOn p k = true) :
    k = kindRaw ∨ k = kindDeck ∨ k = kindReport ∨ k = kindDirective := by
  cases p with
  | U =>
    simp only [kindReceivedOn, List.contains_eq_mem, List.mem_cons, List.not_mem_nil, or_false, decide_eq_true_eq] at h
    obtain h | h | h := h
    · exact .inl h
    · exact .inr (.inl h)
    · exact .inr (.inr (.inl h))
  | D => exact .inr (.inr (.inr (beq_iff_eq.mp h)))

theorem kindKnown_of_received {p : Port} {k : Byte} (h : kindReceivedOn p k = true) : kindKnown k = true := by
  obtain rfl | rfl | rfl | rfl := kind_of_received h <;> decide

theorem testContent_content {unit : BitVec 6} {p : Port} {x : Parcel} (hport : kindReceivedOn p x.kind = true)
    (hlen : x.body.length < 65536) (hallowed : lengthAllowed unit x.kind x.addr x.body = true) :
    testContent unit p x.content = .good x := by
  have hnat : natBE (bytesBE 2 x.body.length) = x.body.length := by
    rw [natBE_bytesBE]
    exact Nat.mod_eq_of_lt hlen
  show (if leadByte ≠ leadByte then Tested.failed .lead else if !kindKnown x.kind then Tested.failed .kind
    else if !kindReceivedOn p x.kind then Tested.failed .port
    else if natBE (bytesBE 2 x.body.length) ≠ x.body.length then Tested.failed .length
    else if !lengthAllowed unit x.kind x.addr x.body then Tested.failed .allowed else Tested.good x) = _
  rw [hnat, kindKnown_of_received hport, hport, hallowed]
  simp

/-- The bytes of a parcel with a kind its port receives and a length its kind allows pass the seven tests. -/
theorem testParcel_bytes {unit : BitVec 6} {p : Port} {x : Parcel} (hport : kindReceivedOn p x.kind = true)
    (hlen : x.body.length < 65536) (hallowed : lengthAllowed unit x.kind x.addr x.body = true) :
    testParcel unit p x.bytes = .good x := by
  have hbytes : x.bytes.length - 2 = x.content.length := by simp [Parcel.bytes]
  have hlong : ¬ x.bytes.length < 8 := by
    simp only [Parcel.bytes, List.length_append, length_content, length_bytesBE]
    omega
  have hcheck : natBE (bytesBE 2 (checkWord x.content).toNat) = (checkWord x.content).toNat := by
    rw [natBE_bytesBE]
    exact Nat.mod_eq_of_lt (checkWord x.content).isLt
  unfold testParcel
  rw [if_neg hlong, hbytes]
  dsimp only
  rw [Parcel.bytes, List.take_left', List.drop_left', hcheck, if_neg (not_not.mpr rfl)]
  · exact testContent_content hport hlen hallowed
  · rfl
  · rfl

theorem lengthAllowed_directive {unit : BitVec 6} {addr : Byte} (hmeant : meantFor unit addr = true) (body : List Byte) :
    lengthAllowed unit kindDirective addr body = match directiveLength (directiveKind body).toNat with
      | some n => body.length == n
      | none => decide (body.length ≤ 256) := by
  unfold lengthAllowed
  rw [if_neg (by decide), if_neg (by decide), if_neg (by decide), hmeant]
  rfl

theorem lengthAllowed_forwarded {unit : BitVec 6} {addr : Byte} (hmeant : meantFor unit addr = false) (body : List Byte) :
    lengthAllowed unit kindDirective addr body = decide (body.length ≤ 256) := by
  unfold lengthAllowed
  rw [if_neg (by decide), if_neg (by decide), if_neg (by decide), hmeant]
  rfl

theorem length_chunkBody (index : Byte) (words : Vector (BitVec 32) 32) :
    ([0x21, index] ++ words.toList.flatMap fun w => bytesBE 4 w.toNat).length = 130 := by
  simp [List.length_flatMap]

/-- The body of a directive meant for the unit has the one length its kind allows, or 256 bytes at most (R7). -/
theorem length_directiveBody {c : Instr} {h : Header} (hc : directiveHeader c = some h) (hwf : c.wellFormed = true)
    (hother : ∀ h body, c ≠ .directiveForOtherUnit h body) :
    (∀ n, directiveLength (directiveKind (directiveBody c)).toNat = some n → (directiveBody c).length = n) ∧
    (directiveLength (directiveKind (directiveBody c)).toNat = none → (directiveBody c).length ≤ 256) := by
  cases c with
  | loadChunk x index words =>
    have hlen := length_chunkBody index words
    exact ⟨fun n hn => hlen.trans (Option.some.inj hn), fun hnone => (by cases hnone)⟩
  | writeSetting | mapInsert | mapDelete | mapRead | loadEnd | ackEvents =>
    exact ⟨fun n hn => (by simp [directiveBody] : _ = _).trans (Option.some.inj hn), fun hnone => (by cases hnone)⟩
  | unknownDirective x body =>
    simp only [Instr.wellFormed, Bool.and_eq_true, decide_eq_true_eq, Option.isNone_iff_eq_none] at hwf
    exact ⟨fun n hn => absurd (hwf.2.symm.trans hn) (by simp), fun _ => hwf.1⟩
  | directiveForOtherUnit x body => exact absurd rfl (hother x body)
  | identify | status | setAddress | readSetting | mapClear | loadBegin | loadCancel | snapshotCounters | profileSave
  | profileRecall | profileErase | resetEngine | resetUnit =>
    exact ⟨fun n hn => Option.some.inj hn, fun hnone => (by cases hnone)⟩
  | _ => cases hc

theorem commandOf_directive (unit : BitVec 6) (addr tag : Byte) (body : List Byte) :
    commandOf unit ⟨kindDirective, addr, tag, body⟩ =
      if meantFor unit addr then directiveCommand ⟨addr, tag⟩ body else .directiveForOtherUnit ⟨addr, tag⟩ body := rfl

/-- A directive meant for the unit passes the tests and spells its command. -/
theorem directive_spelled {unit : BitVec 6} {c : Instr} {h : Header} (hc : directiveHeader c = some h) (hwf : c.wellFormed = true)
    (hmeant : meantFor unit h.addr = true) (hother : ∀ h body, c ≠ .directiveForOtherUnit h body) :
    testParcel unit .D (Parcel.bytes ⟨kindDirective, h.addr, h.tag, directiveBody c⟩) =
        .good ⟨kindDirective, h.addr, h.tag, directiveBody c⟩ ∧
      commandOf unit ⟨kindDirective, h.addr, h.tag, directiveBody c⟩ = c := by
  obtain ⟨hknown, hunknown⟩ := length_directiveBody hc hwf hother
  refine ⟨?tested, ?spelled⟩
  case tested =>
    cases hn : directiveLength (directiveKind (directiveBody c)).toNat with
    | some n =>
      have hlen := hknown n hn
      have hshort : n < 65536 := by
        unfold directiveLength at hn
        split at hn <;> first | (cases hn; decide) | cases hn
      refine testParcel_bytes rfl (by rw [hlen]; exact hshort) ?_
      rw [lengthAllowed_directive hmeant, hn]
      exact beq_iff_eq.mpr hlen
    | none =>
      have hlen := hunknown hn
      refine testParcel_bytes rfl (by dsimp only; omega) ?_
      rw [lengthAllowed_directive hmeant, hn]
      exact decide_eq_true hlen
  case spelled =>
    rw [commandOf_directive, hmeant, if_pos rfl]
    exact directiveCommand_body hc hwf hother

/-- Settles O11: a RAW parcel frame by frame, a directive meant for the unit by its kind, the others as they are. -/
theorem parcelsSpellTheirCommands : Obligations.ParcelsSpellTheirCommands := by
  unfold Obligations.ParcelsSpellTheirCommands
  intro unit c x hwf hx hmeant
  have hreport (h : Header) (body : List Byte) (hb : body.length ≤ 256) :
      testParcel unit .U (Parcel.bytes ⟨kindReport, h.addr, h.tag, body⟩) = .good ⟨kindReport, h.addr, h.tag, body⟩ :=
    testParcel_bytes rfl (by dsimp only; omega) (decide_eq_true hb)
  have hdirective (h : Header) (hc : directiveHeader c = some h) (hother : ∀ h body, c ≠ .directiveForOtherUnit h body)
      (hx : x = ⟨kindDirective, h.addr, h.tag, directiveBody c⟩) :
      testParcel unit (if x.kind = 0x31 then .D else .U) x.bytes = .good x ∧ commandOf unit x = c := by
    subst hx
    exact directive_spelled hc hwf ((hmeant rfl).mpr hother) hother
  cases c with
  | rawParcel first frames =>
    cases hx
    have hlen : (bytesBE 4 first.toNat ++ frames.toList.flatMap frameBytes).length = 516 := by
      simp [List.length_flatMap, length_frameBytes]
    refine ⟨testParcel_bytes rfl (by rw [hlen]; decide) (beq_iff_eq.mpr hlen), ?_⟩
    show Instr.rawParcel (wordAt 32 _ 0 4) (framesOf _) = _
    rw [framesOf_raw, wordAt_zero (w := 32) rfl]
  | deckParcel h code =>
    cases hx
    exact ⟨testParcel_bytes rfl (show 1 < 65536 by decide) rfl, rfl⟩
  | converterReport h body =>
    cases hx
    exact ⟨hreport h body (of_decide_eq_true hwf), rfl⟩
  | directiveForOtherUnit h body =>
    cases hx
    have hb : body.length ≤ 256 := of_decide_eq_true hwf
    have hno : meantFor unit h.addr = false := by
      rw [← Bool.not_eq_true]
      exact fun hyes => (hmeant rfl).mp hyes h body rfl
    refine ⟨testParcel_bytes rfl (by dsimp only [directiveBody]; omega) ?_, ?_⟩
    · rw [lengthAllowed_forwarded hno]
      exact decide_eq_true hb
    · rw [commandOf_directive, hno]
      rfl
  | powerOn | resetLineAssert | resetLineRelease | autoloadComplete | portGoesUp | portGoesDown | parcelCheckFailed
  | upstreamTransmitStart | upstreamForwardTransmitted | arbiterChoice | parcelTransmitted | loadTimerExpiry
  | profileSaveComplete | profileEraseComplete | parcelDroppedDuringStartUp | powerLoss | trimPulsePeriod => cases hx
  | _ => exact hdirective _ rfl (fun _ _ h => (by cases h)) (Option.some.inj hx).symm

/-! ### The first test a sequence fails (R6) -/

theorem directiveLength_eq_lookup (n : Nat) : directiveLengths.lookup n = directiveLength n := by
  unfold directiveLength
  split
  case h_21 =>
    rw [List.lookup_eq_none_iff]
    simp [directiveLengths]
    and_intros <;> assumption
  all_goals rfl

/-- The two readings of R7 agree on the kinds a port receives. -/
theorem lengthOk_eq {p : Port} {kind : Byte} (hkind : kindReceivedOn p kind = true) (unit : BitVec 6) (addr : Byte)
    (body : List Byte) : lengthOk unit kind addr body = lengthAllowed unit kind addr body := by
  have hmeant : (addr.setWidth 6 = unit ∨ addr.setWidth 6 = 63#6) ↔ meantFor unit addr = true := by
    simp [meantFor, addressIn, broadcast]
  obtain rfl | rfl | rfl | rfl := kind_of_received hkind
  · rfl
  · rfl
  · rfl
  · unfold lengthOk lengthAllowed directiveKind
    rw [directiveLength_eq_lookup]
    generalize directiveLength (body.headD 0).toNat = length
    by_cases hm : meantFor unit addr = true
    · cases length <;> simp [kindDirective, kindRaw, kindDeck, kindReport, hmeant.mpr hm, hm]
    · simp [kindDirective, kindRaw, kindDeck, kindReport, mt hmeant.mp hm, hm]

/-- Tests 3 to 7 as R6 lists them, over a content that has a whole header. -/
theorem testContent_cons (unit : BitVec 6) (p : Port) (lead kind addr tag l1 l0 : Byte) (body : List Byte) :
    testContent unit p (lead :: kind :: addr :: tag :: l1 :: l0 :: body) =
      if lead ≠ leadByte then .failed .lead
      else if !kindKnown kind then .failed .kind
      else if !kindReceivedOn p kind then .failed .port
      else if natBE [l1, l0] ≠ body.length then .failed .length
      else if !lengthAllowed unit kind addr body then .failed .allowed
      else .good ⟨kind, addr, tag, body⟩ := rfl

/-- Whether the first test a sequence fails is the check. -/
def failure : Tested → Option Bool
  | .failed .check => some true
  | .failed _ => some false
  | .good _ => none

theorem exists_content {bs : List Byte} (h : 6 ≤ bs.length) :
    ∃ lead kind addr tag l1 l0 body, bs = lead :: kind :: addr :: tag :: l1 :: l0 :: body := by
  match bs, h with
  | lead :: kind :: addr :: tag :: l1 :: l0 :: body, _ => exact ⟨lead, kind, addr, tag, l1, l0, body, rfl⟩

/-- The tests find the first failure R6 names. -/
theorem firstFailure_eq (unit : BitVec 6) (p : Port) (bytes : List Byte) :
    firstFailure unit p bytes = failure (testParcel unit p bytes) := by
  unfold firstFailure testParcel
  dsimp only
  by_cases hlong : bytes.length < 8
  · rw [if_pos hlong, if_pos hlong]
    rfl
  rw [if_neg hlong, if_neg hlong]
  by_cases hcheck : natBE (bytes.drop (bytes.length - 2)) = (checkWord (bytes.take (bytes.length - 2))).toNat
  case neg =>
    rw [if_pos hcheck, if_pos hcheck]
    rfl
  rw [if_neg (not_not.mpr hcheck), if_neg (not_not.mpr hcheck)]
  obtain ⟨lead, kind, addr, tag, l1, l0, body, hcontent⟩ :=
    exists_content (bs := bytes.take (bytes.length - 2)) (by rw [List.length_take]; omega)
  rw [hcontent, testContent_cons]
  show (if lead ≠ leadByte then some false
    else if kind ∉ ([0x11, 0x12, 0x13, 0x31, 0x41, 0x42, 0x43, 0x44, 0x45] : List Byte) then some false
    else if kind ∉ (match p with
      | .U => [0x11, 0x12, 0x13]
      | .D => [0x31] : List Byte) then some false
    else if natBE [l1, l0] ≠ body.length then some false
    else if lengthOk unit kind addr body = false then some false else none) = _
  by_cases hlead : lead = leadByte
  case neg =>
    rw [if_pos hlead, if_pos hlead]
    rfl
  rw [if_neg (not_not.mpr hlead), if_neg (not_not.mpr hlead)]
  have hknown : kind ∈ ([0x11, 0x12, 0x13, 0x31, 0x41, 0x42, 0x43, 0x44, 0x45] : List Byte) ↔ kindKnown kind = true :=
    List.contains_iff_mem.symm
  by_cases hk : kindKnown kind = true
  case neg =>
    rw [if_pos (mt hknown.mp hk), Bool.eq_false_iff.mpr hk]
    rfl
  rw [if_neg (not_not.mpr (hknown.mpr hk)), hk]
  have hreceived : (kind ∈ (match p with
      | .U => [0x11, 0x12, 0x13]
      | .D => [0x31] : List Byte)) ↔ kindReceivedOn p kind = true := by
    cases p with
    | U => exact List.contains_iff_mem.symm
    | D => exact List.mem_singleton.trans beq_iff_eq.symm
  by_cases hp : kindReceivedOn p kind = true
  case neg =>
    rw [if_pos (mt hreceived.mp hp), Bool.eq_false_iff.mpr hp]
    rfl
  rw [if_neg (not_not.mpr (hreceived.mpr hp)), hp]
  by_cases hlen : natBE [l1, l0] = body.length
  case neg =>
    rw [if_pos hlen, if_pos hlen]
    rfl
  rw [if_neg (not_not.mpr hlen), if_neg (not_not.mpr hlen), lengthOk_eq hp]
  cases lengthAllowed unit kind addr body <;> rfl

/-! ### A failing parcel (R6, R9) -/

/-- A raised event's notice joins the queue or does not (R146). -/
theorem raise_notices (k : EventKind) (s : State) : (raise k s).notices = s.notices ∨
    s.flags.getLsbD k.code = false ∧ (raise k s).notices = s.notices ++ [⟨k, s.intake.passNumber, s.intake.position⟩] := by
  unfold raise
  dsimp only
  split
  · next hfree =>
    simp only [Bool.and_eq_true, Bool.not_eq_true'] at hfree
    exact .inr ⟨hfree.1.1, rfl⟩
  · exact .inl rfl

/-- The counters after a parcel is dropped under a test. -/
def droppedCounters (p : Port) (isCheck : Bool) (c : Counters) : Counters :=
  { c with
    checkErrorsU := if isCheck = true ∧ p = .U then countUp c.checkErrorsU 1 else c.checkErrorsU
    checkErrorsD := if isCheck = true ∧ p = .D then countUp c.checkErrorsD 1 else c.checkErrorsD
    malformed := if isCheck = true then c.malformed else countUp c.malformed 1 }

/-- What dropping a parcel counts (R6), before the link error. -/
theorem countDropped_eq (p : Port) (t : ReceiverTest) (s : State) :
    (match t with
      | .check => countCheckError p s
      | _ => countMalformed s) =
      { s with counters := droppedCounters p (failure (.failed t) == some true) s.counters } := by
  cases t <;> cases p <;> rfl

theorem dropParcel_eq (p : Port) (t : ReceiverTest) (s : State) :
    dropParcel p t s =
      addLinkError p { s with counters := droppedCounters p (failure (.failed t) == some true) s.counters } := by
  rw [← countDropped_eq]
  rfl

/-- Settles O10: the test that fails names the counter, and the link error is counted and compared after it. -/
theorem droppedParcelsAreCountedUnderTheFirstTest : Obligations.DroppedParcelsAreCountedUnderTheFirstTest := by
  unfold Obligations.DroppedParcelsAreCountedUnderTheFirstTest
  intro p bytes s hrunning isCheck hfail
  rw [firstFailure_eq] at hfail
  obtain ⟨t, ht⟩ : ∃ t, testParcel s.unit.unitAddress p bytes = .failed t := by
    cases h : testParcel s.unit.unitAddress p bytes with
    | failed t => exact ⟨t, rfl⟩
    | good x => rw [h] at hfail; cases hfail
  rw [ht] at hfail
  have hexec : exec (.parcelCheckFailed p bytes) s = done (dropParcel p t s) := by
    show deliver p bytes s = _
    unfold deliver
    rw [show receiving s = true from beq_iff_eq.mpr hrunning, if_pos rfl, ht]
  have hcheck : (failure (.failed t) == some true) = isCheck := by rw [hfail]; cases isCheck <;> rfl
  refine ⟨_, hexec, ?_⟩
  rw [dropParcel_eq, hcheck]
  unfold addLinkError
  dsimp only
  by_cases hdegraded : s.settings.linkThreshold ≤ min (s.link.errors.get p + 1) 65535
  · rw [if_pos hdegraded, if_pos hdegraded]
    refine ⟨rfl, ?_⟩
    obtain h | ⟨hflag, h⟩ := raise_notices .linkDegraded { s with
      link := { s.link with errors := s.link.errors.set p (min (s.link.errors.get p + 1) 65535) }
      counters := droppedCounters p isCheck s.counters }
    · exact .inl h
    · exact .inr ⟨hdegraded, hflag, h⟩
  · rw [if_neg hdegraded, if_neg hdegraded]
    exact ⟨rfl, .inl rfl⟩

end Sys2Proof.Machine
end

section
/-! What events, counters, records, cues and CLEAN parcels do to their queues (Chapter 8), and the repair stage (5.7 to 5.9). -/

namespace Sys2Proof.Machine

/-! ### Events and counters (R145, R146, R150) -/

theorem eventKind_code_inj {j k : EventKind} : j.code = k.code ↔ j = k := by
  cases j <;> cases k <;> decide

/-- The flags after an event is raised, kind by kind. -/
theorem raise_flags_get (k j : EventKind) (s : State) :
    (raise k s).flags.getLsbD j.code = (s.flags.getLsbD j.code || (j == k)) := by
  rw [raise_flags, BitVec.getLsbD_or, EventKind.mask, BitVec.getLsbD_twoPow]
  have hj : j.code < 12 := eventKind_code_lt j
  have hk : k.code < 12 := eventKind_code_lt k
  by_cases h : j = k
  · simp [h, hk]
  · have hne : ¬ k.code = j.code := fun e => h (eventKind_code_inj.mp e.symm)
    simp [h, hne]

/-- An event's notice is taken when its flag was clear, its mask bit is on and none of its kind waits. -/
theorem raise_notices_of_noted {k : EventKind} {s : State} (hflag : s.flags.getLsbD k.code = false)
    (hmask : s.settings.noticeMask.getLsbD k.code = true) (hnone : ∀ n ∈ s.notices, n.kind ≠ k) :
    (raise k s).notices = s.notices ++ [⟨k, s.intake.passNumber, s.intake.position⟩] := by
  have hany : (s.notices.any fun n => n.kind = k) = false := by simpa using hnone
  simp only [raise, holdsEvent, hflag, hmask, hany, Bool.not_false, Bool.and_self, if_true]

theorem raise_notices_of_not_noted {k : EventKind} {s : State}
    (h : ¬ (s.flags.getLsbD k.code = false ∧ s.settings.noticeMask.getLsbD k.code = true ∧ ∀ n ∈ s.notices, n.kind ≠ k)) :
    (raise k s).notices = s.notices := by
  obtain heq | ⟨hflag, -⟩ := raise_notices k s
  · exact heq
  · refine if_neg fun htaken => h ?_
    simpa [holdsEvent, and_assoc] using htaken

theorem countUp_toNat (c : BitVec 32) (n : Nat) : (countUp c n).toNat = min (c.toNat + n) 4294967295 := by
  unfold countUp
  rw [BitVec.toNat_ofNat]
  exact Nat.mod_eq_of_lt (by omega)

theorem queueClean_of_room {d : Side} {p : CleanParcel} {s : State} (hup : s.link.link.d = .up)
    (hroom : (s.cleanQueues.get d).length < 4) :
    queueClean d p s = { s with cleanQueues := s.cleanQueues.set d (s.cleanQueues.get d ++ [p]) } :=
  if_pos ⟨hup, hroom⟩

theorem queueClean_of_discarded {d : Side} {p : CleanParcel} {s : State}
    (h : s.link.link.d = .down ∨ 4 ≤ (s.cleanQueues.get d).length) :
    queueClean d p s = { s with counters := { s.counters with
      cleanDiscarded := s.counters.cleanDiscarded.set d (countUp (s.counters.cleanDiscarded.get d) 1) } } := by
  refine if_neg fun ⟨hup, hroom⟩ => ?_
  obtain hdown | hfull := h
  · rw [hup] at hdown
    cases hdown
  · omega

/-- Settles O52: each thing by the branch its queue's occupancy takes. -/
theorem eventsRecordsAndReportsAreTaken : Obligations.EventsRecordsAndReportsAreTaken := by
  unfold Obligations.EventsRecordsAndReportsAreTaken
  refine ⟨fun k s => ⟨fun j => raise_flags_get k j s, fun ⟨hflag, hmask, hnone⟩ => raise_notices_of_noted hflag hmask hnone,
    raise_notices_of_not_noted, rfl⟩, countUp_toNat, fun _ _ => rfl, fun d p s => ⟨queueClean_of_room, queueClean_of_discarded⟩,
    fun r s => ?records⟩
  case records =>
    obtain ⟨hfull, heq⟩ | ⟨hhigh, heq⟩ | ⟨hlow, hnot, heq⟩ := appendDamage_cases r s
    · refine ⟨fun h => absurd h (by omega), fun h => absurd h (by omega), fun _ => ⟨_, rfl, ?_⟩⟩
      rw [heq]
      rfl
    · refine ⟨fun _ h => absurd hhigh h, fun _ => ⟨_, rfl, ?_⟩, fun h => absurd h (by omega)⟩
      rw [heq]
      rfl
    · exact ⟨fun _ _ => heq, fun h => absurd h hnot, fun h => absurd h (by omega)⟩

/-! ### The repair stage (R94 to R102) -/

/-- Settles O49: a lane's stage by whether it is in use, a sample by its damage and the mode. -/
theorem repairFollowsTheModeInForce : Obligations.RepairFollowsTheModeInForce := by
  unfold Obligations.RepairFollowsTheModeInForce
  refine ⟨fun l x other s => ⟨?stage, rfl⟩, fun mode twin tracker r x other => ?sample⟩
  case stage =>
    rfl
  case sample =>
    refine ⟨fun hx => ?undamaged, fun hx hm => ?pass, fun hx hm => ?mute, fun hx hm => ?hold, fun o hx hm ho hgood htwin => ?twin,
      fun hx hm hno => ?noTwin, fun hx => ?good, fun hx hrun => ?first, fun hx hrun => ?next⟩
    case undamaged => simp only [repairSample, hx, Bool.false_eq_true, if_false, frameFlags]
    case pass => simp only [repairSample, hx, hm, if_true, frameFlags, passDamaged]
    case mute => simp only [repairSample, hx, hm, if_true, frameFlags]
    case hold =>
      simp only [repairSample, hx, hm, if_true, frameFlags, heldSample, true_and]
      omega
    case twin => simp only [repairSample, hx, hm, ho, hgood, htwin, if_true, frameFlags, Bool.not_false, Bool.and_self]
    case noTwin =>
      subst hm
      have hpassed : repairSample .twin twin tracker r x other =
          passDamaged x { frameFlags x tracker with twinUnavailable := true } := by
        obtain rfl | rfl | ⟨o, rfl, ho⟩ := hno
        · cases other <;> simp [repairSample, hx]
        · simp [repairSample, hx]
        · simp [repairSample, hx, ho]
      rw [hpassed]
      rfl
    case good => 
      simp only [repairNext, hx, Bool.false_eq_true, if_false]
    case first => simp only [repairNext, hx, hrun, if_true, Bool.false_eq_true, if_false]
    case next => simp only [repairNext, hx, hrun, if_true, decayGain]

end Sys2Proof.Machine
end

section
/-! Every directive by one function: what it does and replies once it is executed, and the length of its result (12.4). -/

namespace Sys2Proof.Machine

/-- What a directive command does when it is executed, and its reply; UNKNOWN for a kind the table does not name. -/
def directiveReply : Instr → State → State × Reply
  | .identify _ => replyIdentify
  | .status _ => replyStatus
  | .setAddress _ a => replySetAddress a
  | .readSetting _ id => replyReadSetting id
  | .writeSetting _ id v => replyWriteSetting id v
  | .mapInsert _ cls lanes start stop param => replyMapInsert cls lanes start stop param
  | .mapDelete _ id => replyMapDelete id
  | .mapRead _ n => replyMapRead n
  | .mapClear _ => replyMapClear
  | .loadBegin _ t => replyLoadBegin t
  | .loadChunk _ index words => replyLoadChunk index words.toList
  | .loadEnd _ sum => replyLoadEnd sum
  | .loadCancel _ => replyLoadCancel
  | .ackEvents _ set => replyAckEvents set
  | .snapshotCounters _ c => replySnapshot c
  | .profileSave _ slot m => replyProfileSave slot m
  | .profileRecall _ slot => replyProfileRecall slot
  | .profileErase _ slot => replyProfileErase slot
  | .resetEngine _ => replyResetEngine
  | .resetUnit _ => replyResetUnit
  | _ => replyUnknown

theorem unknown_of_wellFormed {h : Header} {body : List Byte} (hwf : (Instr.unknownDirective h body).wellFormed = true) :
    directiveLength (body.headD 0).toNat = none := by
  simp only [Instr.wellFormed, Bool.and_eq_true, Option.isNone_iff_eq_none] at hwf
  exact hwf.2

/-- A directive command is its reply taken, unless it is a RESET UNIT that resets at once (R177). -/
theorem exec_directive {c : Instr} {h : Header} {s : State} (hc : directiveHeader c = some h) (hwf : c.wellFormed = true)
    (hother : ∀ body, c ≠ .directiveForOtherUnit h body)
    (hreset : c = .resetUnit h → ¬ (wouldExecute h s ∧ s.link.link.d = .down)) :
    exec c s = done (takeDirective h (directiveBody c) (directiveReply c) s) := by
  cases c with
  | unknownDirective x body =>
    cases hc
    exact exec_unknownDirective_of_unknown s (unknown_of_wellFormed hwf)
  | directiveForOtherUnit x body =>
    cases hc
    exact absurd rfl (hother body)
  | resetUnit x =>
    cases hc
    exact congrArg done (if_neg (hreset rfl))
  | identify | status | setAddress | readSetting | writeSetting | mapInsert | mapDelete | mapRead | mapClear | loadBegin
  | loadChunk | loadEnd | loadCancel | ackEvents | snapshotCounters | profileSave | profileRecall | profileErase
  | resetEngine =>
    cases hc
    rfl
  | _ => cases hc

/-! ### A full directive queue (R159) -/

/-- With four answers waiting the directive is counted, offered upstream and dropped. -/
theorem takeDirective_of_full {h : Header} {body : List Byte} {act : State → State × Reply} {s : State}
    (hrunning : s.unit.phase = .running) (haddr : addressIn h.addr = s.unit.unitAddress ∨ addressIn h.addr = 63#6)
    (hfull : 4 ≤ s.directives.length) :
    takeDirective h body act s = raise .directiveOverrun
      (withCounters (fun k => { k with directivesDropped := countUp k.directivesDropped 1 }) (arrived h body s)) := by
  have hmeant : meantFor s.unit.unitAddress h.addr = true := by simpa [meantFor, broadcast] using haddr
  obtain ⟨hr, -⟩ | ⟨-, -, e⟩ | ⟨-, hm, -⟩ := takeDirective_cases h body act s
  · exact absurd hr (by simp [receiving, hrunning])
  · rw [e, routed_eq_arrived]
    exact if_pos hfull
  · exact absurd hm (by simp [hmeant])

/-- Settles O23: no directive executes, so each is the drop of its body. -/
theorem fullDirectiveQueueDropsTheDirective : Obligations.FullDirectiveQueueDropsTheDirective := by
  unfold Obligations.FullDirectiveQueueDropsTheDirective
  intro c h s hc hwf hrunning haddr hother hfull
  have hwould : wouldExecute h s = false := by simp [wouldExecute, hfull]
  refine ⟨_, exec_directive hc hwf hother fun _ ⟨hyes, _⟩ => absurd hyes (by simp [hwould]), ?_⟩
  rw [takeDirective_of_full hrunning haddr hfull]
  rfl

/-! ### The lengths of the results (12.4) -/

@[simp] theorem length_signedBE (n : Nat) (x : Int) : (signedBE n x).length = n := length_bytesBE n _

@[simp] theorem length_spanBlock (s : State) : (spanBlock s).length = 10 := by
  unfold spanBlock
  split <;> simp

@[simp] theorem length_entryBytes (e : MapEntry) : (entryBytes e).length = 16 := by
  simp [entryBytes]

/-- The length of the result after a directive of a kind (12.4). -/
def resultLength (kind : Nat) : Nat :=
  match kind with
  | 0x01 => 21
  | 0x02 => 54
  | 0x03 => 4
  | 0x04 => 11
  | 0x05 => 7
  | 0x10 => 16
  | 0x11 => 30
  | 0x12 => 31
  | 0x13 => 16
  | 0x20 => 4
  | 0x21 => 4
  | 0x22 => 10
  | 0x30 => 4
  | 0x31 => 190
  | 0x40 => 4
  | 0x41 => 3
  | 0x42 => 3
  | _ => 2

theorem resultLength_of_unknown {kind : Nat} (h : directiveLength kind = none) : resultLength kind = 2 := by
  unfold directiveLength at h
  unfold resultLength
  split at h
  case h_21 => split <;> first | contradiction | rfl
  all_goals cases h

theorem length_replyStatus (s : State) : (replyStatus s).2.result.length = 52 := by
  simp [replyStatus, statusSide, Quad.toList]

theorem length_replySetAddress (a : Byte) (s : State) : (replySetAddress a s).2.result.length = 2 := by
  unfold replySetAddress
  split <;> rfl

theorem length_replyReadSetting (id : Byte) (s : State) : (replyReadSetting id s).2.result.length = 9 := by
  unfold replyReadSetting
  split <;> simp

theorem length_replyWriteSetting (id : Byte) (v : BitVec 32) (s : State) :
    (replyWriteSetting id v s).2.result.length = 5 := by
  unfold replyWriteSetting
  split
  · rfl
  · split <;> simp

theorem length_replyMapInsert (cls lanes : Byte) (start stop param : BitVec 32) (s : State) :
    (replyMapInsert cls lanes start stop param s).2.result.length = 14 := by
  unfold replyMapInsert
  split <;> simp

theorem length_replyMapDelete (id : BitVec 16) (s : State) : (replyMapDelete id s).2.result.length = 28 := by
  unfold replyMapDelete
  dsimp only
  split
  · simp
  · split
    · simp
    · split <;> simp

theorem length_replyMapRead (n : BitVec 16) (s : State) : (replyMapRead n s).2.result.length = 29 := by
  unfold replyMapRead
  dsimp only
  split
  · split <;> simp
  · simp

theorem length_replyLoadBegin (table : Byte) (s : State) : (replyLoadBegin table s).2.result.length = 2 := by
  unfold replyLoadBegin
  split
  · rfl
  · split <;> rfl

theorem length_replyLoadChunk (index : Byte) (words : List (BitVec 32)) (s : State) :
    (replyLoadChunk index words s).2.result.length = 2 := by
  unfold replyLoadChunk
  dsimp only
  split
  · rfl
  · split
    · rfl
    · split <;> rfl

theorem length_replyLoadEnd (sum : BitVec 32) (s : State) : (replyLoadEnd sum s).2.result.length = 8 := by
  unfold replyLoadEnd
  dsimp only
  split
  · simp
  · split <;> simp

theorem length_replyLoadCancel (s : State) : (replyLoadCancel s).2.result.length = 0 := by
  unfold replyLoadCancel
  split <;> rfl

theorem length_replySnapshot (clear : Byte) (s : State) : (replySnapshot clear s).2.result.length = 188 := by
  have hlen : (s.counters.toList.flatMap fun c => bytesBE 4 c.toNat).length = 188 := by
    simp [Counters.toList, Quad.toList]
  unfold replySnapshot
  dsimp only
  split
  · exact hlen
  · split
    · exact hlen
    · exact List.length_replicate

theorem length_replyProfileSave (slot m : Byte) (s : State) : (replyProfileSave slot m s).2.result.length = 2 := by
  unfold replyProfileSave
  split
  · rfl
  · split <;> rfl

theorem length_replyProfileErase (slot : Byte) (s : State) : (replyProfileErase slot s).2.result.length = 1 := by
  unfold replyProfileErase
  split <;> rfl

theorem length_replyProfileRecall (slot : Byte) (s : State) : (replyProfileRecall slot s).2.result.length = 1 := by
  unfold replyProfileRecall
  split
  · rfl
  · split
    · rfl
    · split
      · rfl
      · split <;> rfl

/-- A directive's result has the length of its kind. -/
theorem length_directiveReply {c : Instr} {h : Header} (hc : directiveHeader c = some h) (hwf : c.wellFormed = true)
    (hother : ∀ body, c ≠ .directiveForOtherUnit h body) (s : State) :
    2 + (directiveReply c s).2.result.length = resultLength (directiveKind (directiveBody c)).toNat := by
  cases c with
  | status x => exact congrArg (2 + ·) (length_replyStatus s)
  | setAddress x a => exact congrArg (2 + ·) (length_replySetAddress a s)
  | readSetting x id => exact congrArg (2 + ·) (length_replyReadSetting id s)
  | writeSetting x id v => exact congrArg (2 + ·) (length_replyWriteSetting id v s)
  | mapInsert x cls lanes start stop param => exact congrArg (2 + ·) (length_replyMapInsert cls lanes start stop param s)
  | mapDelete x id => exact congrArg (2 + ·) (length_replyMapDelete id s)
  | mapRead x n => exact congrArg (2 + ·) (length_replyMapRead n s)
  | loadBegin x table => exact congrArg (2 + ·) (length_replyLoadBegin table s)
  | loadChunk x index words => exact congrArg (2 + ·) (length_replyLoadChunk index words.toList s)
  | loadEnd x sum => exact congrArg (2 + ·) (length_replyLoadEnd sum s)
  | loadCancel x => exact congrArg (2 + ·) (length_replyLoadCancel s)
  | snapshotCounters x clear => exact congrArg (2 + ·) (length_replySnapshot clear s)
  | profileSave x slot m => exact congrArg (2 + ·) (length_replyProfileSave slot m s)
  | profileErase x slot => exact congrArg (2 + ·) (length_replyProfileErase slot s)
  | profileRecall x slot => exact congrArg (2 + ·) (length_replyProfileRecall slot s)
  | mapClear x =>
    show 2 + (bytesBE 2 _ ++ bytesBE 2 _ ++ spanBlock s).length = 16
    simp
  | ackEvents x set =>
    show 2 + (bytesBE 2 _).length = 4
    simp
  | identify | resetEngine | resetUnit => rfl
  | unknownDirective x body => exact (resultLength_of_unknown (unknown_of_wellFormed hwf)).symm
  | directiveForOtherUnit x body =>
    cases hc
    exact absurd rfl (hother body)
  | _ => cases hc

/-- No directive changes the answers that wait. -/
theorem keepsQueue_directiveReply (c : Instr) : KeepsQueue (directiveReply c) := by
  cases c with
  | setAddress x a => exact keepsQueue_setAddress a
  | readSetting x id => exact keepsQueue_readSetting id
  | writeSetting x id v => exact keepsQueue_writeSetting id v
  | mapInsert x cls lanes start stop param => exact keepsQueue_insert cls lanes start stop param
  | mapDelete x id => exact keepsQueue_delete id
  | mapRead x n => exact keepsQueue_read n
  | loadBegin x table => exact keepsQueue_loadBegin table
  | loadChunk x index words => exact keepsQueue_loadChunk index words.toList
  | loadEnd x sum => exact keepsQueue_loadEnd sum
  | loadCancel x => exact keepsQueue_loadCancel
  | ackEvents x set => exact keepsQueue_ack set
  | snapshotCounters x clear => exact keepsQueue_snapshot clear
  | profileSave x slot m => exact keepsQueue_save slot m
  | profileErase x slot => exact keepsQueue_erase slot
  | profileRecall x slot => exact keepsQueue_recall slot
  | resetEngine x => exact engineReset_directives
  | _ => exact fun _ => rfl

/-- Settles O24: an executed directive is answered with its reply in the state it arrived in. -/
theorem answersHaveTheLengthOfTheirKind : Obligations.AnswersHaveTheLengthOfTheirKind := by
  unfold Obligations.AnswersHaveTheLengthOfTheirKind
  intro c h s hc hwf hx hother hup
  have hexec := exec_directive hc hwf hother fun he ⟨_, hdown⟩ => absurd ((hup he).symm.trans hdown) (by decide)
  refine ⟨_, (directiveReply c (arrived h (directiveBody c) s)).2.code, (directiveReply c (arrived h (directiveBody c) s)).2.result,
    hexec.trans (done_takeDirective_of_executes (act := directiveReply c) hx rfl), ?_,
    length_directiveReply hc hwf hother (arrived h (directiveBody c) s)⟩
  exact congrArg (· ++ [_]) (keepsQueue_directiveReply c (arrived h (directiveBody c) s))

end Sys2Proof.Machine
end

section
/-! The capstan trim (11.3), a load's chunks (R171), and the profile store's saves and erases (10.2). -/

namespace Sys2Proof.Machine

/-! ### The capstan trim (R188 to R191) -/

/-- The trim loop looks at the boundaries of the trim side while it is at work and the loop is enabled (R188). -/
theorem trimCount_of_idle {d : Side} {s : State}
    (h : s.settings.trimEnable = false ∨ s.settings.trimSide ≠ d ∨ (s.trackers.get d).state = .idle) : trimCount d s = s := by
  refine if_neg fun ⟨henable, hside, hactive⟩ => ?_
  obtain h | h | h := h
  · exact absurd henable (by simp [h])
  · exact h hside
  · exact (sideActive_iff s d).mp hactive h

/-- The duty after an interval with this sum (R189). -/
def nextDuty (locked : Bool) (sum : Int) (band : Int) (duty : Nat) : Nat :=
  if locked then
    if unity + band < sum / 256 then min (duty + 1) 255 else if sum / 256 < unity - band then duty - 1 else duty
  else duty

/-- A boundary of the trim side, at the interval's end and before it. -/
theorem trimCount_of_active {d : Side} {s : State} (henable : s.settings.trimEnable = true) (hside : s.settings.trimSide = d)
    (hactive : (s.trackers.get d).state ≠ .idle) :
    trimCount d s =
      if 256 ≤ s.lines.trimCount + 1 then
        { s with lines := { s.lines with
          trimCount := 0, trimSum := 0, allLocked := true
          duty := nextDuty (s.lines.allLocked && (s.trackers.get d).state == .locked)
            (s.lines.trimSum + (s.trackers.get d).appliedStep) s.settings.trimDeadband s.lines.duty } }
      else
        { s with lines := { s.lines with
          trimCount := s.lines.trimCount + 1
          trimSum := s.lines.trimSum + (s.trackers.get d).appliedStep
          allLocked := s.lines.allLocked && (s.trackers.get d).state == .locked } } :=
  if_pos ⟨henable, hside, (sideActive_iff s d).mpr hactive⟩

theorem nextDuty_le {locked : Bool} {sum band : Int} {duty : Nat} (h : duty ≤ 255) : nextDuty locked sum band duty ≤ 255 := by
  unfold nextDuty
  split
  · split
    · exact min_le_right _ _
    · split <;> omega
  · exact h

/-- The duty rises by one, to 255, when the mean lies above the deadband. -/
theorem nextDuty_of_above {sum band : Int} {duty : Nat} (hle : duty ≤ 255) (h : 256 * (16777216 + band + 1) ≤ sum) :
    nextDuty true sum band duty = if duty = 255 then 255 else duty + 1 := by
  have habove : unity + band < sum / 256 := by unfold unity; omega
  rw [nextDuty, if_pos rfl, if_pos habove]
  split <;> omega

/-- The duty falls by one, to 0, when the mean lies below the deadband. -/
theorem nextDuty_of_below {sum band : Int} {duty : Nat} (hband : 0 ≤ band) (h : sum < 256 * (16777216 - band)) :
    nextDuty true sum band duty = if duty = 0 then 0 else duty - 1 := by
  have hnot : ¬ unity + band < sum / 256 := by unfold unity; omega
  have hbelow : sum / 256 < unity - band := by unfold unity; omega
  rw [nextDuty, if_pos rfl, if_neg hnot, if_pos hbelow]
  split <;> omega

/-- Within the deadband the duty stays. -/
theorem nextDuty_of_within {locked : Bool} {sum band : Int} {duty : Nat} (hlow : 256 * (16777216 - band) ≤ sum)
    (hhigh : sum < 256 * (16777216 + band + 1)) : nextDuty locked sum band duty = duty := by
  have hnot : ¬ unity + band < sum / 256 := by unfold unity; omega
  have hnot' : ¬ sum / 256 < unity - band := by unfold unity; omega
  rw [nextDuty, if_neg hnot, if_neg hnot', ite_self]

/-- Settles O42: the pulse takes up the duty in start-up and in operation; a boundary by the interval's count. -/
theorem trimFollowsTheMeanStep : Obligations.TrimFollowsTheMeanStep := by
  unfold Obligations.TrimFollowsTheMeanStep
  refine ⟨fun s hs => ?pulse, fun s hs => ?low, fun d s => ⟨trimCount_of_idle, fun henable hside hactive => ⟨?within, ?last⟩⟩⟩
  case pulse =>
    have hout : outOfReset s = true := by obtain h | h := hs <;> simp [outOfReset, h]
    show done (takeUpDuty s) = _
    rw [takeUpDuty, if_pos hout]
    rfl
  case low =>
    have hin : ¬ outOfReset s = true := by obtain h | h := hs <;> simp [outOfReset, h]
    show done (takeUpDuty s) = _
    rw [takeUpDuty, if_neg hin]
    rfl
  case within =>
    intro hcount
    refine ⟨s.lines.allLocked && (s.trackers.get d).state == .locked, by simp, ?_⟩
    rw [trimCount_of_active henable hside hactive, if_neg (by omega)]
  case last =>
    intro hcount hduty
    refine ⟨_, nextDuty_le hduty, (trimCount_of_active henable hside hactive).trans (if_pos (by omega)), ?_, ?_, ?_, ?_⟩
    · intro hnot
      have hfalse : (s.lines.allLocked && (s.trackers.get d).state == .locked) = false := by
        rw [← Bool.not_eq_true]
        simpa using hnot
      rw [hfalse]
      rfl
    · intro hlocked habove
      rw [show (s.lines.allLocked && (s.trackers.get d).state == .locked) = true by simpa using hlocked]
      exact nextDuty_of_above hduty habove
    · intro hlocked hbelow
      rw [show (s.lines.allLocked && (s.trackers.get d).state == .locked) = true by simpa using hlocked]
      exact nextDuty_of_below (Int.natCast_nonneg _) hbelow
    · exact nextDuty_of_within

/-! ### LOAD CHUNK (R171) -/

theorem length_putWords {staging : List Int} {place : Nat} {words : List Int} (h : place + words.length ≤ staging.length) :
    (putWords staging place words).length = staging.length := by
  simp only [putWords, List.length_append, List.length_take, List.length_drop]
  omega

/-- The words stand in their places. -/
theorem getElem?_putWords {staging : List Int} {place : Nat} {words : List Int} (h : place ≤ staging.length) {i : Nat}
    (hi : i < words.length) : (putWords staging place words)[place + i]? = words[i]? := by
  have hlen : (staging.take place).length = place := by rw [List.length_take]; omega
  rw [putWords, List.append_assoc, List.getElem?_append_right (by omega), hlen, Nat.add_sub_cancel_left,
    List.getElem?_append_left hi]

/-- Every other place keeps its word. -/
theorem getElem?_putWords_of_outside {staging : List Int} {place : Nat} {words : List Int} (h : place ≤ staging.length) {j : Nat}
    (hj : j < place ∨ place + words.length ≤ j) : (putWords staging place words)[j]? = staging[j]? := by
  have hlen : (staging.take place).length = place := by rw [List.length_take]; omega
  obtain hj | hj := hj
  · rw [putWords, List.append_assoc, List.getElem?_append_left (by omega), List.getElem?_take_of_lt hj]
  · rw [putWords, List.getElem?_append_right (by rw [List.length_append]; omega), List.length_append, hlen, List.getElem?_drop]
    congr 1
    omega

/-- The running sum is the sum of the words, mod 2^32. -/
theorem toNat_sum_words (sum : BitVec 32) (words : List (BitVec 32)) :
    (((sum + words.sum).toNat : Nat) : Int) = ((sum.toNat : Int) + (words.map fun w => w.toInt).sum) % 4294967296 := by
  induction words generalizing sum with
  | nil =>
    have := sum.isLt
    simp only [List.sum_nil, List.map_nil, add_zero]
    omega
  | cons w words ih =>
    have hw : (w.toInt : Int) % 4294967296 = (w.toNat : Int) % 4294967296 := by
      rw [BitVec.toInt_eq_toNat_bmod]
      exact Int.bmod_emod
    rw [List.sum_cons, ← BitVec.add_assoc, ih, BitVec.toNat_add, List.map_cons, List.sum_cons]
    omega

theorem wordAllowed_iff (c : Option TableCode) (w : Int) : wordAllowed c w = true ↔
    if c = some .kernel then -32768 ≤ w ∧ w ≤ 32767 else -8388608 ≤ w ∧ w ≤ 8388607 := by
  unfold wordAllowed
  split
  · simp
  · next hne => rw [if_neg hne]; simp

theorem all_wordAllowed_iff (c : Option TableCode) (words : Vector (BitVec 32) 32) :
    (words.toList.all fun w => wordAllowed c w.toInt) = true ↔ ∀ i : Fin 32, wordAllowed c (words.get i).toInt = true := by
  rw [List.all_eq_true]
  constructor
  · intro h i
    exact h _ (by simp [Vector.get])
  · intro h w hw
    obtain ⟨i, hi, rfl⟩ := List.mem_iff_getElem.mp hw
    exact h ⟨i, by simpa using hi⟩

/-- Settles O34: the checks in the order the reply makes them. -/
theorem loadChunkTakesTheExpectedChunk : Obligations.LoadChunkTakesTheExpectedChunk := by
  unfold Obligations.LoadChunkTakesTheExpectedChunk
  intro h index words s hx body g inOrder inRange refusedWith
  have hrefused {code : AnswerCode} (hact : ∀ u : State, u.stager = s.stager →
      replyLoadChunk index words.toList u = (u, ⟨code, [index, byteOf s.stager.next]⟩)) : refusedWith code :=
    done_takeDirective_of_executes hx (hact (arrived h body s) rfl)
  have hrange : (words.toList.all fun w => wordAllowed g.table w.toInt) = true ↔ inRange := by
    rw [all_wordAllowed_iff]
    exact forall_congr' fun i => wordAllowed_iff g.table _
  have horder : ¬ inOrder ↔ index.toNat ≠ g.next ∨ g.expected ≤ g.next := by
    show ¬ (index.toNat = g.next ∧ g.next < g.expected) ↔ _
    omega
  refine ⟨fun hload => hrefused fun u hu => ?noload, fun hload hno => hrefused fun u hu => ?order,
    fun hload hin hno => hrefused fun u hu => ?form, fun hload hin hall hlen hexpected => ?ok⟩
  case noload => simp [replyLoadChunk, hu, show s.stager.loading = false from hload]
  case order =>
    have hno : index.toNat ≠ s.stager.next ∨ s.stager.expected ≤ s.stager.next := horder.mp hno
    simp [replyLoadChunk, hu, show s.stager.loading = true from hload, hno]
  case form =>
    have hin : ¬ (index.toNat ≠ s.stager.next ∨ s.stager.expected ≤ s.stager.next) := mt horder.mpr (not_not.mpr hin)
    have hno : (words.toList.all fun w => wordAllowed s.stager.table w.toInt) = false :=
      Bool.eq_false_iff.mpr (mt hrange.mp hno)
    rw [replyLoadChunk]
    simp [hu, show s.stager.loading = true from hload, hin, hno]
  case ok =>
    have hnot : ¬ (index.toNat ≠ g.next ∨ g.expected ≤ g.next) := mt horder.mpr (not_not.mpr hin)
    have hplace : 32 * index.toNat + (words.toList.map (·.toInt)).length ≤ g.staging.length := by
      obtain ⟨hindex, hnext⟩ := hin
      rw [List.length_map, Vector.length_toList, hlen]
      omega
    have hwords : (words.toList.map (·.toInt)).length = 32 := by rw [List.length_map, Vector.length_toList]
    have hact : replyLoadChunk index words.toList (arrived h body s) =
        (withStager (fun g =>
          { g with
            staging := putWords g.staging (32 * index.toNat) (words.toList.map (·.toInt))
            sum := g.sum + words.toList.sum
            next := g.next + 1
            timer := startTimer s }) (arrived h body s), ⟨.ok, [index, byteOf (g.next + 1)]⟩) := by
      have hload : (arrived h body s).stager.loading = true := hload
      unfold replyLoadChunk
      dsimp only
      rw [hload]
      exact (if_neg (by decide)).trans ((if_neg hnot).trans (if_neg (by
        rw [Bool.not_eq_true']
        exact fun hf => absurd (hrange.mpr hall) (by rw [← Bool.not_eq_true] at hf; exact hf))))
    refine ⟨_, done_takeDirective_of_executes hx hact, rfl, ?_, fun i => ?_, fun j hj => ?_, toNat_sum_words _ _⟩
    · exact (length_putWords hplace).trans hlen
    · refine (getElem?_putWords (Nat.le_trans (Nat.le_add_right _ _) hplace) (by rw [hwords]; exact i.isLt)).trans ?_
      simp [Vector.get]
    · exact getElem?_putWords_of_outside (Nat.le_trans (Nat.le_add_right _ _) hplace) (by rw [hwords]; exact hj)

/-! ### Saves and erases (R178 to R181) -/

/-- A slot once spoiled is not valid. -/
theorem not_valid_invalidate (x : Slot) (p : Profile) : ¬ Slot.Valid (invalidate x) p := fun h => by
  have hv := (slotValid_iff _).mpr ⟨p, h⟩
  rw [slotValid_invalidate] at hv
  cases hv

theorem slotOfCode_of_val {n : Fin 4} {k : Nat} (h : n.val = k) : slotOfCode k = some n := by
  subst h
  fin_cases n <;> rfl

theorem slotOfCode_of_gt {k : Nat} (h : 3 < k) : slotOfCode k = none := by
  unfold slotOfCode
  split
  case h_5 => rfl
  all_goals omega

theorem byte_le_one_iff {b : Byte} : b.toNat ≤ 1 ↔ b = 0 ∨ b = 1 := by
  simp only [← BitVec.toNat_inj]
  show _ ↔ b.toNat = 0 ∨ b.toNat = 1
  omega

/-- PROFILE SAVE and PROFILE ERASE judge the slot in the order RANGE, PROTECTED, BUSY (R180, R181). -/
theorem judgeStoreWrite_of_range {slot : Byte} (s : State) (h : 3 < slot.toNat) : judgeStoreWrite slot s = .error .range := by
  rw [judgeStoreWrite, slotOfCode_of_gt h]

theorem judgeStoreWrite_of_protected (s : State) : judgeStoreWrite 0 s = .error .protectedSlot := rfl

theorem judgeStoreWrite_of_busy {slot : Byte} {n : Fin 4} {s : State} (hn : n.val = slot.toNat) (hne : n ≠ 0)
    (h : s.store.state ≠ .idle ∨ s.stager.install = .recall n) : judgeStoreWrite slot s = .error .busy := by
  rw [judgeStoreWrite, slotOfCode_of_val hn]
  dsimp only
  rw [if_neg hne]
  obtain h | h := h
  · rw [if_pos (by simpa [storeBusy] using h)]
  · rw [if_pos h, ite_self]

theorem judgeStoreWrite_of_ok {slot : Byte} {n : Fin 4} {s : State} (hn : n.val = slot.toNat) (hne : n ≠ 0)
    (hidle : s.store.state = .idle) (hinstall : s.stager.install ≠ .recall n) : judgeStoreWrite slot s = .ok n := by
  rw [judgeStoreWrite, slotOfCode_of_val hn]
  dsimp only
  rw [if_neg hne, if_neg (by simp [storeBusy, hidle]), if_neg hinstall]

theorem replyProfileSave_of_range {slot mk : Byte} (s : State) (h : 1 < mk.toNat) :
    replyProfileSave slot mk s = (s, ⟨.range, [0, 0]⟩) :=
  if_pos (by
    rw [← not_or, ← byte_le_one_iff]
    omega)

/-- With make-default in range a save goes by the judgement of its slot. -/
theorem replyProfileSave_of_error {slot mk : Byte} {s : State} {code : AnswerCode} (hmk : mk.toNat ≤ 1)
    (h : judgeStoreWrite slot s = .error code) : replyProfileSave slot mk s = (s, ⟨code, [0, 0]⟩) := by
  rw [replyProfileSave, if_neg (by rw [← not_or, ← byte_le_one_iff]; omega), h]

theorem replyProfileErase_of_error {slot : Byte} {s : State} {code : AnswerCode}
    (h : judgeStoreWrite slot s = .error code) : replyProfileErase slot s = (s, ⟨code, [0]⟩) := by
  rw [replyProfileErase, h]

theorem replyProfileSave_of_ok {slot mk : Byte} {s : State} {n : Fin 4} (hmk : mk.toNat ≤ 1)
    (h : judgeStoreWrite slot s = .ok n) : replyProfileSave slot mk s =
      (withStore (fun x => { spoilSlot n x with state := .saving n (profileInUse s) (mk == 1), elapsed := 0 }) s,
        ⟨.ok, [slot, mk]⟩) := by
  rw [replyProfileSave, if_neg (by rw [← not_or, ← byte_le_one_iff]; omega), h]

theorem replyProfileErase_of_ok {slot : Byte} {s : State} {n : Fin 4} (h : judgeStoreWrite slot s = .ok n) :
    replyProfileErase slot s =
      (withStore (fun x => { spoilSlot n x with state := .erasing n, elapsed := 0 }) s, ⟨.ok, [slot]⟩) := by
  rw [replyProfileErase, h]

/-- Settles O38: the judgement of the slot decides both directives; a completion acts on the operation under way. -/
theorem profileSaveAndEraseWriteTheSlot : Obligations.ProfileSaveAndEraseWriteTheSlot := by
  unfold Obligations.ProfileSaveAndEraseWriteTheSlot
  intro h slot mk s
  refine ⟨fun hx => ?directives, fun n copy default hsaving => ?saved, fun n herasing => ?erased⟩
  case directives =>
    intro saveRefused eraseRefused
    have hsave {code : AnswerCode} (hact : ∀ u : State, u.store = s.store → u.stager = s.stager →
        replyProfileSave slot mk u = (u, ⟨code, [0, 0]⟩)) : saveRefused code :=
      done_takeDirective_of_executes hx (hact _ rfl rfl)
    have herase {code : AnswerCode} (hact : ∀ u : State, u.store = s.store → u.stager = s.stager →
        replyProfileErase slot u = (u, ⟨code, [0]⟩)) : eraseRefused code :=
      done_takeDirective_of_executes hx (hact _ rfl rfl)
    refine ⟨fun hout => hsave fun u _ _ => ?_, fun hslot => herase fun u _ _ =>
      replyProfileErase_of_error (judgeStoreWrite_of_range u hslot), ?_, ?_, fun n hn hne => ⟨fun hbusy => ?_, fun hidle hinstall => ?_⟩⟩
    · by_cases hmk : 1 < mk.toNat
      · exact replyProfileSave_of_range u hmk
      · exact replyProfileSave_of_error (by omega) (judgeStoreWrite_of_range u (by omega))
    · rintro rfl
      exact herase fun u _ _ => replyProfileErase_of_error (judgeStoreWrite_of_protected u)
    · rintro rfl hmk
      exact hsave fun u _ _ => replyProfileSave_of_error hmk (judgeStoreWrite_of_protected u)
    · have hjudge (u : State) (hstore : u.store = s.store) (hstager : u.stager = s.stager) :
          judgeStoreWrite slot u = .error .busy :=
        judgeStoreWrite_of_busy hn hne (by rw [hstore, hstager]; exact hbusy)
      exact ⟨herase fun u hu hg => replyProfileErase_of_error (hjudge u hu hg),
        fun hmk => hsave fun u hu hg => replyProfileSave_of_error hmk (hjudge u hu hg)⟩
    · have hjudge (body : List Byte) : judgeStoreWrite slot (arrived h body s) = .ok n :=
        judgeStoreWrite_of_ok hn hne hidle hinstall
      exact ⟨fun hmk => ⟨_, not_valid_invalidate _,
          done_takeDirective_of_executes hx (replyProfileSave_of_ok hmk (hjudge _))⟩,
        ⟨_, not_valid_invalidate _, done_takeDirective_of_executes hx (replyProfileErase_of_ok (hjudge _))⟩⟩
  case saved =>
    have hcomplete : completeStore s.store =
        { slots := s.store.slots.modify n fun y => writtenSlot copy y.serial
          header := if default then n else s.store.header
          state := .idle
          elapsed := 0 } := by
      rw [completeStore, hsaving]
    refine ⟨?_, ?_⟩
    · show done (if isSaving s.store.state then withStore completeStore s else s) = _
      rw [hsaving, withStore, hcomplete]
      rfl
    · show done (if isErasing s.store.state then withStore completeStore s else s) = _
      rw [hsaving]
      rfl
  case erased =>
    have hcomplete : completeStore s.store =
        { slots := s.store.slots.set n Slot.erased
          header := if s.store.header = n then 0 else s.store.header
          state := .idle
          elapsed := 0 } := by
      rw [completeStore, herasing]
    refine ⟨⟨Slot.erased, rfl, ?_⟩, ?_⟩
    · show done (if isErasing s.store.state then withStore completeStore s else s) = _
      rw [herasing, withStore, hcomplete]
      rfl
    · show done (if isSaving s.store.state then withStore completeStore s else s) = _
      rw [herasing]
      rfl

end Sys2Proof.Machine
end

section
/-! What a write of the settings table does (R168): one setting with its effect, and a whole profile. WRITE SETTING, PROFILE
RECALL and the autoload are its three sources. -/

namespace Sys2Proof.Machine

/-! ### One write, part by part -/

theorem storeSetting_link (n : SettingId) (v : Int) (s : State) : (storeSetting n v s).link = s.link :=
  storeSetting_keeps State.link (fun _ _ => rfl) (fun _ _ => rfl) (fun _ _ => rfl) (fun _ _ => rfl) n v s

theorem storeSetting_log (n : SettingId) (v : Int) (s : State) : (storeSetting n v s).log = s.log :=
  storeSetting_keeps State.log (fun _ _ => rfl) (fun _ _ => rfl) (fun _ _ => rfl) (fun _ _ => rfl) n v s

/-- The speed range clamps the applied steps (R54), and no other setting touches the trackers. -/
theorem storeSetting_trackers (n : SettingId) (v : Int) (s : State) (d : Side) : ((storeSetting n v s).trackers.get d) =
    if n = .speedRange then clampStep v.toNat (s.trackers.get d) else s.trackers.get d := by
  cases n with
  | speedRange =>
    rw [if_pos rfl]
    cases d <;> rfl
  | linkThreshold =>
    unfold storeSetting writeEffect compareLinkErrors
    dsimp only
    split <;> rfl
  | _ => rfl

theorem compareLinkErrors_flags (s : State) : (compareLinkErrors s).flags =
    if s.settings.linkThreshold ≤ s.link.errors.u ∨ s.settings.linkThreshold ≤ s.link.errors.d then s.flags ||| 0x040
    else s.flags := apply_ite State.flags _ _ _

/-- The link error threshold is compared with both counts (R10). -/
theorem storeSetting_flags (n : SettingId) (v : Int) (s : State) : (storeSetting n v s).flags =
    if n = .linkThreshold ∧ (v.toNat ≤ s.link.errors.u ∨ v.toNat ≤ s.link.errors.d) then s.flags ||| 0x040 else s.flags := by
  cases n with
  | linkThreshold =>
    simp only [true_and]
    exact compareLinkErrors_flags _
  | _ => rfl

theorem storeSetting_notices {n : SettingId} (hn : n ≠ .linkThreshold) (v : Int) (s : State) :
    (storeSetting n v s).notices = s.notices := by
  cases n with
  | linkThreshold => exact absurd rfl hn
  | _ => rfl

/-- The lines after a write: the pause request by R187, the trim loop restarted by R188. -/
def writtenLines (n : SettingId) (v : Int) (s : State) : LineUnit :=
  match n with
  | .pauseOnLogHigh => { s.lines with pauseRequest := v == 1 && (s.lines.pauseRequest || decide (48 ≤ s.log.length)) }
  | .trimEnable => { s.lines with trimCount := 0, trimSum := 0, allLocked := true }
  | .trimSide => { s.lines with trimCount := 0, trimSum := 0, allLocked := true }
  | _ => s.lines

theorem storeSetting_lines (n : SettingId) (v : Int) (s : State) : (storeSetting n v s).lines = writtenLines n v s := by
  cases n with
  | linkThreshold =>
    unfold storeSetting writeEffect compareLinkErrors
    dsimp only
    split <;> rfl
  | _ => rfl

theorem writtenLines_pauseRequest (n : SettingId) (v : Int) (s : State) : (writtenLines n v s).pauseRequest =
    if n = .pauseOnLogHigh then v == 1 && (s.lines.pauseRequest || decide (48 ≤ s.log.length)) else s.lines.pauseRequest := by
  cases n <;> rfl

theorem writtenLines_trim (n : SettingId) (v : Int) (s : State) :
    if n = .trimEnable ∨ n = .trimSide then
      (writtenLines n v s).trimCount = 0 ∧ (writtenLines n v s).trimSum = 0 ∧ (writtenLines n v s).allLocked = true
    else (writtenLines n v s).trimCount = s.lines.trimCount ∧ (writtenLines n v s).trimSum = s.lines.trimSum ∧
      (writtenLines n v s).allLocked = s.lines.allLocked := by
  cases n with
  | trimEnable => exact ⟨rfl, rfl, rfl⟩
  | trimSide => exact ⟨rfl, rfl, rfl⟩
  | _ => simp [writtenLines]

theorem writtenLines_duty (n : SettingId) (v : Int) (s : State) :
    (writtenLines n v s).duty = s.lines.duty ∧ (writtenLines n v s).lineDuty = s.lines.lineDuty := by
  cases n <;> exact ⟨rfl, rfl⟩

/-- A state that differs from another in what a write of the settings table may change alone. -/
def WrittenFrom (s t : State) : Prop :=
  t = { s with settings := t.settings, trackers := t.trackers, flags := t.flags, notices := t.notices, lines := t.lines }

theorem WrittenFrom.trans {s t u : State} (hst : WrittenFrom s t) (htu : WrittenFrom t u) : WrittenFrom s u := by
  unfold WrittenFrom at *
  rw [htu, hst]

theorem storeSetting_frame (n : SettingId) (v : Int) (s : State) : WrittenFrom s (storeSetting n v s) := by
  unfold WrittenFrom
  cases n with
  | linkThreshold =>
    unfold storeSetting writeEffect compareLinkErrors
    dsimp only
    split <;> rfl
  | _ => rfl

/-! ### WRITE SETTING (R167) -/

theorem settingOf_injective {m n : Nat} {x : SettingId} (hm : settingOf m = some x) (hn : settingOf n = some x) : m = n := by
  rw [← getElem?_allSettings] at hm hn
  have hnodup : allSettings.Nodup := by decide
  exact (List.getElem?_inj (List.getElem?_eq_some_iff.mp hm).1 hnodup).mp (hm.trans hn.symm)

/-- An id names the setting of its own row alone. -/
theorem settingOf_eq_iff {n : Nat} {x : SettingId} (hx : settingOf n = some x) {m : Nat} {y : SettingId}
    (hy : settingOf m = some y) : x = y ↔ n = m :=
  ⟨fun e => settingOf_injective hx (e ▸ hy), fun e => Option.some.inj (hx.symm.trans (e ▸ hy))⟩

/-- A stored value changes its own place in the table. -/
theorem settingValues_putSetting {n : Nat} {x : SettingId} (hx : settingOf n = some x) (t : Settings) {w : Int}
    (hw : valueAllowed (settingKind x) w) : settingValues (putSetting t x w) = (settingValues t).set n w := by
  refine List.ext_getElem? fun i => ?_
  rw [settingValues_eq_map, settingValues_eq_map, List.getElem?_map, List.getElem?_set, List.length_map, List.getElem?_map,
    getElem?_allSettings]
  by_cases hi : n = i
  · subst hi
    have hn : n < allSettings.length := (List.getElem?_eq_some_iff.mp ((getElem?_allSettings n).trans hx)).1
    rw [hx, if_pos rfl, if_pos hn, Option.map_some, settingValue_putSetting_same t x w hw]
  · rw [if_neg hi]
    cases hy : settingOf i with
    | none => rfl
    | some y => rw [Option.map_some, Option.map_some, settingValue_putSetting_of_ne t w fun e => hi ((settingOf_eq_iff hx hy).mp e.symm)]

/-- Which values each kind refuses (9.4). -/
def Refused (k : SettingKind) (v : Int) : Prop :=
  (k = .speedRange ∧ v ≠ 2 ∧ v ≠ 4 ∧ v ≠ 8 ∧ v ≠ 12) ∨ ∃ c, k = .codes c ∧ (v < 0 ∨ c ≤ v)

theorem judgeSetting_of_refused {k : SettingKind} {v : Int} (h : Refused k v) : judgeSetting k v = (none, .range) := by
  obtain ⟨rfl, hv⟩ | ⟨c, rfl, hv⟩ := h
  · exact if_neg (by omega)
  · exact if_neg (by omega)

/-- The value stored and its outcome, for each kind (9.4). -/
def Stores (k : SettingKind) (v w : Int) (code : AnswerCode) : Prop :=
  match k with
  | .numeric lo hi => w = (if v < lo then lo else if hi < v then hi else v) ∧ (code = .ok ↔ w = v)
  | .window =>
    w = (if v ≤ 64 then 64 else if v ≤ 128 then 128 else if v ≤ 256 then 256 else 512) ∧ (code = .ok ↔ w = v)
  | .speedRange => w = v ∧ code = .ok
  | .codes _ => w = v ∧ code = .ok

theorem judgeSetting_of_not_refused {k : SettingKind} {v : Int} (h : ¬ Refused k v) :
    ∃ w code, judgeSetting k v = (some w, code) ∧ (code = .ok ∨ code = .clamped) ∧ Stores k v w code := by
  cases k with
  | numeric lo hi =>
    unfold judgeSetting Stores
    dsimp only
    by_cases hlo : v < lo
    · exact ⟨lo, .clamped, if_pos hlo, .inr rfl, by rw [if_pos hlo], by simp; omega⟩
    by_cases hhi : hi < v
    · exact ⟨hi, .clamped, by rw [if_neg hlo, if_pos hhi], .inr rfl, by rw [if_neg hlo, if_pos hhi], by simp; omega⟩
    · exact ⟨v, .ok, by rw [if_neg hlo, if_neg hhi], .inl rfl, by rw [if_neg hlo, if_neg hhi], by simp⟩
  | window =>
    unfold judgeSetting Stores
    dsimp only
    by_cases hlisted : v = 64 ∨ v = 128 ∨ v = 256 ∨ v = 512
    · refine ⟨v, .ok, if_pos hlisted, .inl rfl, ?_, by simp⟩
      obtain rfl | rfl | rfl | rfl := hlisted <;> rfl
    rw [if_neg hlisted]
    by_cases h64 : v < 64
    · exact ⟨64, .clamped, if_pos h64, .inr rfl, by rw [if_pos (by omega)], by simp; omega⟩
    rw [if_neg h64, if_neg (show ¬ v ≤ 64 by omega)]
    by_cases h128 : v < 128
    · exact ⟨128, .clamped, if_pos h128, .inr rfl, by rw [if_pos (by omega)], by simp; omega⟩
    rw [if_neg h128, if_neg (show ¬ v ≤ 128 by omega)]
    by_cases h256 : v < 256
    · exact ⟨256, .clamped, if_pos h256, .inr rfl, by rw [if_pos (by omega)], by simp; omega⟩
    rw [if_neg h256, if_neg (show ¬ v ≤ 256 by omega)]
    exact ⟨512, .clamped, rfl, .inr rfl, rfl, by simp; omega⟩
  | speedRange => exact ⟨v, .ok, if_pos (by by_contra hno; exact h (.inl ⟨rfl, by omega⟩)), .inl rfl, rfl, rfl⟩
  | codes c => exact ⟨v, .ok, if_pos (by by_contra hno; exact h (.inr ⟨c, rfl, by omega⟩)), .inl rfl, rfl, rfl⟩

theorem replyWriteSetting_of_none {id : Byte} {value : BitVec 32} (s : State) (hn : settingOf id.toNat = none) :
    replyWriteSetting id value s = (s, ⟨.unknown, [id] ++ List.replicate 4 0⟩) := by
  rw [replyWriteSetting, hn]

theorem replyWriteSetting_of_refused {id : Byte} {value : BitVec 32} {n : SettingId} (s : State)
    (hn : settingOf id.toNat = some n) (h : Refused (settingKind n) value.toInt) :
    replyWriteSetting id value s = (s, ⟨.range, [id] ++ signedBE 4 (settingValue s.settings n)⟩) := by
  rw [replyWriteSetting, hn]
  dsimp only
  rw [judgeSetting_of_refused h]

theorem replyWriteSetting_of_stored {id : Byte} {value : BitVec 32} {n : SettingId} {w : Int} {code : AnswerCode} (s : State)
    (hn : settingOf id.toNat = some n) (h : judgeSetting (settingKind n) value.toInt = (some w, code)) :
    replyWriteSetting id value s = (storeSetting n w s, ⟨code, [id] ++ signedBE 4 w⟩) := by
  have hw := judgeSetting_allowed (settingKind_range n) h
  rw [replyWriteSetting, hn]
  dsimp only
  rw [h]
  dsimp only
  rw [storeSetting_settings, settingValue_putSetting_same _ _ _ hw]

/-- The rules and the values of 9.4 at an id's row are those of the setting it names. -/
theorem setting_of_row {n : Nat} {kind : SettingKind} {held : Int} {t : Settings} (hk : settingRules[n]? = some kind)
    (hheld : (settingValues t)[n]? = some held) :
    ∃ x, settingOf n = some x ∧ settingKind x = kind ∧ settingValue t x = held := by
  rw [settingRules_eq_map, List.getElem?_map, getElem?_allSettings] at hk
  rw [settingValues_eq_map, List.getElem?_map, getElem?_allSettings] at hheld
  cases hx : settingOf n with
  | none =>
    rw [hx] at hk
    cases hk
  | some x =>
    rw [hx] at hk hheld
    exact ⟨x, rfl, Option.some.inj hk, Option.some.inj hheld⟩

/-- Settles O28: the judgement of the value by its kind, then one write with its effect. -/
theorem writeSettingStoresClampsOrRefuses : Obligations.WriteSettingStoresClampsOrRefuses := by
  unfold Obligations.WriteSettingStoresClampsOrRefuses
  intro h id value s hx body v n
  refine ⟨fun hn => done_takeDirective_of_executes hx (replyWriteSetting_of_none _ (settingOf_of_ge hn)),
    fun kind held hk hheld => ?named⟩
  case named =>
    obtain ⟨x, hname, rfl, rfl⟩ := setting_of_row hk hheld
    refine ⟨fun hrefused => done_takeDirective_of_executes hx (replyWriteSetting_of_refused _ hname hrefused), fun hnot => ?stored⟩
    obtain ⟨w, code, hjudge, hcode, hstores⟩ := judgeSetting_of_not_refused hnot
    have hexec := done_takeDirective_of_executes (body := body) hx (replyWriteSetting_of_stored (arrived h body s) hname hjudge)
    have hw : valueAllowed (settingKind x) w := judgeSetting_allowed (settingKind_range x) hjudge
    have hrow {m : Nat} {y : SettingId} (hy : settingOf m = some y) : x = y ↔ n = m := settingOf_eq_iff hname hy
    refine ⟨_, w, code, hexec, hstores, hcode, ?frame, ?table, fun d => ?steps, ?flags, fun hne => ?notices, ?pause, ?trim, ?duty⟩
    case frame =>
      have hframe := storeSetting_frame x w (arrived h body s)
      unfold WrittenFrom at hframe
      show settleLines (answered 0x05 h code _ (storeSetting x w (arrived h body s))) = _
      rw [hframe]
      rfl
    case table =>
      show settingValues (storeSetting x w (arrived h body s)).settings = _
      rw [storeSetting_settings]
      exact settingValues_putSetting hname _ hw
    case steps =>
      show (storeSetting x w (arrived h body s)).trackers.get d = _
      simp only [storeSetting_trackers, hrow (m := 9) (y := .speedRange) rfl]
      by_cases hn : n = 9
      · have hpos : 0 ≤ w := by
          have hxs : x = .speedRange := (hrow rfl).mpr hn
          subst hxs
          obtain rfl | rfl | rfl | rfl := hw <;> decide
        rw [if_pos hn, clampStep, rangeLow, rangeHigh, Int.toNat_of_nonneg hpos]
        by_cases hidle : (s.trackers.get d).state = .idle
        · exact (if_pos hidle).trans (if_neg fun hboth => hboth.2 hidle).symm
        · exact (if_neg hidle).trans (if_pos ⟨hn, hidle⟩).symm
      · rw [if_neg hn, if_neg fun hboth => hn hboth.1]
        rfl
    case flags =>
      show (storeSetting x w (arrived h body s)).flags = _
      simp only [storeSetting_flags, hrow (m := 31) (y := .linkThreshold) rfl]
      show (if n = 31 ∧ (w.toNat ≤ s.link.errors.u ∨ w.toNat ≤ s.link.errors.d) then s.flags ||| 0x040 else s.flags) = _
      simp only [Int.toNat_le]
    case notices =>
      exact storeSetting_notices (fun e => hne ((hrow rfl).mp e)) w (arrived h body s)
    case pause =>
      show (storeSetting x w (arrived h body s)).lines.pauseRequest = _
      simp only [storeSetting_lines, writtenLines_pauseRequest, hrow (m := 38) (y := .pauseOnLogHigh) rfl]
      rfl
    case trim =>
      have htrim := writtenLines_trim x w (arrived h body s)
      simp only [← storeSetting_lines, hrow (m := 39) (y := .trimEnable) rfl, hrow (m := 40) (y := .trimSide) rfl] at htrim
      exact htrim
    case duty =>
      have hduty := writtenLines_duty x w (arrived h body s)
      rw [← storeSetting_lines] at hduty
      exact hduty

end Sys2Proof.Machine
end

section
/-! A whole profile written into the settings table (R168, R182, R184), by PROFILE RECALL and by the autoload. -/

namespace Sys2Proof.Machine

/-! ### The table is the profile's (12.5) -/

/-- A value read from a table and stored in another is read back, whatever it is. -/
theorem settingValue_putSetting_copy (t u : Settings) (n : SettingId) :
    settingValue (putSetting u n (settingValue t n)) n = settingValue t n := by
  cases n with
  | laneEnable l => cases h : t.laneEnable.get l <;> simp [settingValue, putSetting, h, boolCode]
  | direction d => cases h : t.direction.get d <;> simp [settingValue, putSetting, h, directionCode]
  | reference d => cases h : t.reference.get d <;> simp [settingValue, putSetting, h, refLaneCode]
  | skewMode d => cases h : t.skewMode.get d <;> simp [settingValue, putSetting, h, skewModeCode]
  | twin d => cases h : t.twin.get d <;> simp [settingValue, putSetting, h, boolCode]
  | repairMode d => cases h : t.repairMode.get d <;> simp [settingValue, putSetting, h, repairModeCode, repairModeOfCode]
  | eqSet d =>
    have hslot : slotOfCode (t.eqSet.get d).val = some (t.eqSet.get d) := slotOfCode_of_val rfl
    simp [settingValue, putSetting, hslot]
  | indicator i => cases h : t.indicator.get i <;> simp [settingValue, putSetting, h, indicatorCode, indicatorOfCode]
  | pauseOnLogHigh => cases h : t.pauseOnLogHigh <;> simp [settingValue, putSetting, h, boolCode]
  | trimEnable => cases h : t.trimEnable <;> simp [settingValue, putSetting, h, boolCode]
  | trimSide => cases h : t.trimSide <;> simp [settingValue, putSetting, h, sideCode]
  | _ => simp [settingValue, putSetting]

theorem boolCode_injective {a b : Bool} (h : (boolCode a : Int) = boolCode b) : a = b := by
  revert h
  cases a <;> cases b <;> decide

theorem directionCode_injective {a b : Direction} (h : (directionCode a : Int) = directionCode b) : a = b := by
  revert h
  cases a <;> cases b <;> decide

theorem refLaneCode_injective {a b : RefLane} (h : (refLaneCode a : Int) = refLaneCode b) : a = b := by
  revert h
  cases a <;> cases b <;> decide

theorem skewModeCode_injective {a b : SkewMode} (h : (skewModeCode a : Int) = skewModeCode b) : a = b := by
  revert h
  cases a <;> cases b <;> decide

theorem repairModeCode_injective {a b : RepairMode} (h : (repairModeCode a : Int) = repairModeCode b) : a = b := by
  revert h
  cases a <;> cases b <;> decide

theorem indicatorCode_injective {a b : IndicatorSource} (h : (indicatorCode a : Int) = indicatorCode b) : a = b := by
  revert h
  cases a <;> cases b <;> decide

theorem sideCode_injective {a b : Side} (h : (sideCode a : Int) = sideCode b) : a = b := by
  revert h
  cases a <;> cases b <;> decide

/-- A table is the values of its settings. -/
theorem settings_ext {t u : Settings} (h : ∀ n, settingValue t n = settingValue u n) : t = u := by
  obtain ⟨e1, e2, e3, e4, e5, e6, e7, e8, e9, e10, e11, e12, e13, e14, e15, e16, e17, e18, e19, e20, e21, e22, e23, e24, e25, e26⟩ := t
  obtain ⟨f1, f2, f3, f4, f5, f6, f7, f8, f9, f10, f11, f12, f13, f14, f15, f16, f17, f18, f19, f20, f21, f22, f23, f24, f25, f26⟩ := u
  simp only [Settings.mk.injEq]
  exact ⟨Quad.ext_get fun l => boolCode_injective (h (.laneEnable l)),
    PerSide.ext_get fun d => directionCode_injective (h (.direction d)), Int.ofNat.inj (h .window),
    PerSide.ext_get fun d => Int.ofNat.inj (h (.biasHz d)), Int.ofNat.inj (h .speedRange), Int.ofNat.inj (h .slew),
    Int.ofNat.inj (h .lockCount), Int.ofNat.inj (h .holdLimit), PerSide.ext_get fun d => refLaneCode_injective (h (.reference d)),
    PerSide.ext_get fun d => skewModeCode_injective (h (.skewMode d)), PerSide.ext_get fun d => h (.skewCycles d),
    PerSide.ext_get fun d => Int.ofNat.inj (h (.threshold d)), Int.ofNat.inj (h .nIn), Int.ofNat.inj (h .nOut),
    PerSide.ext_get fun d => boolCode_injective (h (.twin d)), PerSide.ext_get fun d => repairModeCode_injective (h (.repairMode d)),
    PerSide.ext_get fun d => Fin.ext (Int.ofNat.inj (h (.eqSet d))), PerSide.ext_get fun d => Int.ofNat.inj (h (.gain d)),
    Int.ofNat.inj (h .linkThreshold), Int.ofNat.inj (h .loadTimeout), BitVec.eq_of_toNat_eq (Int.ofNat.inj (h .noticeMask)),
    Quad.ext_get fun i => indicatorCode_injective (h (.indicator i)), boolCode_injective (h .pauseOnLogHigh),
    boolCode_injective (h .trimEnable), sideCode_injective (h .trimSide), Int.ofNat.inj (h .trimDeadband)⟩

/-- Settings written one after another stand in the table, and the others stay. -/
theorem settingValue_foldl_store (t : Settings) (ids : List SettingId) (n : SettingId) (s : State) :
    settingValue (ids.foldl (fun u id => storeSetting id (settingValue t id) u) s).settings n =
      if n ∈ ids then settingValue t n else settingValue s.settings n := by
  induction ids generalizing s with
  | nil => rfl
  | cons id ids ih =>
    rw [List.foldl_cons, ih, storeSetting_settings]
    by_cases hid : n = id
    · subst hid
      rw [settingValue_putSetting_copy, ite_self, if_pos List.mem_cons_self]
    · rw [settingValue_putSetting_of_ne _ _ hid]
      simp only [List.mem_cons, hid, false_or]

theorem writeProfile_settings (t : Settings) (s : State) : (writeProfile t s).settings = t :=
  settings_ext fun n => (settingValue_foldl_store t allSettings n s).trans (if_pos (mem_allSettings n))

/-! ### The effects of a profile written (R168) -/

/-- What one setting's write alone changes is as that write leaves it. -/
theorem writeProfile_at {β : Type} (g : State → β) (x : SettingId)
    (hkeep : ∀ n v u, n ≠ x → g (storeSetting n v u) = g u) (t : Settings) (s : State) :
    ∃ u, g u = g s ∧ g (writeProfile t s) = g (storeSetting x (settingValue t x) u) := by
  obtain ⟨before, after, hall⟩ := List.append_of_mem (mem_allSettings x)
  have hnodup : allSettings.Nodup := by decide
  rw [hall, List.nodup_append, List.nodup_cons] at hnodup
  obtain ⟨-, ⟨hafter, -⟩, hbefore⟩ := hnodup
  have hothers (ids : List SettingId) (hx : x ∉ ids) (u : State) :
      g (ids.foldl (fun u id => storeSetting id (settingValue t id) u) u) = g u := by
    induction ids generalizing u with
    | nil => rfl
    | cons id ids ih =>
      rw [List.mem_cons, not_or] at hx
      rw [List.foldl_cons, ih hx.2, hkeep _ _ _ (Ne.symm hx.1)]
  refine ⟨before.foldl (fun u id => storeSetting id (settingValue t id) u) s,
    hothers before (fun hx => hbefore x hx x List.mem_cons_self rfl) s, ?_⟩
  rw [writeProfile, hall, List.foldl_append, List.foldl_cons, hothers after hafter]

theorem writeProfile_trackers (t : Settings) (s : State) (d : Side) :
    (writeProfile t s).trackers.get d = clampStep t.speedRange (s.trackers.get d) := by
  obtain ⟨u, hu, hw⟩ := writeProfile_at (fun s => s.trackers.get d) .speedRange
    (fun n v u hn => (storeSetting_trackers n v u d).trans (if_neg hn)) t s
  rw [hw, storeSetting_trackers, if_pos rfl, hu]
  rfl

theorem writeProfile_flags (t : Settings) (s : State) : (writeProfile t s).flags =
    if t.linkThreshold ≤ s.link.errors.u ∨ t.linkThreshold ≤ s.link.errors.d then s.flags ||| 0x040 else s.flags := by
  obtain ⟨u, hu, hw⟩ := writeProfile_at (fun s => (s.flags, s.link)) .linkThreshold
    (fun n v u hn => Prod.ext ((storeSetting_flags n v u).trans (if_neg fun h => hn h.1)) (storeSetting_link n v u)) t s
  simp only [Prod.mk.injEq] at hu hw
  obtain ⟨hflags, hlink⟩ := hu
  rw [hw.1, storeSetting_flags, hflags, hlink]
  simp [settingValue]

theorem writeProfile_pauseRequest (t : Settings) (s : State) : (writeProfile t s).lines.pauseRequest =
    (t.pauseOnLogHigh && (s.lines.pauseRequest || decide (48 ≤ s.log.length))) := by
  obtain ⟨u, hu, hw⟩ := writeProfile_at (fun s => (s.lines.pauseRequest, s.log)) .pauseOnLogHigh
    (fun n v u hn => Prod.ext
      ((congrArg LineUnit.pauseRequest (storeSetting_lines n v u)).trans ((writtenLines_pauseRequest n v u).trans (if_neg hn)))
      (storeSetting_log n v u)) t s
  simp only [Prod.mk.injEq] at hu hw
  obtain ⟨hpause, hlog⟩ := hu
  rw [hw.1, storeSetting_lines, writtenLines_pauseRequest, if_pos rfl, hpause, hlog]
  cases h : t.pauseOnLogHigh <;> simp [settingValue, boolCode, h]

theorem writeProfile_duty (t : Settings) (s : State) : (writeProfile t s).lines.duty = s.lines.duty :=
  foldl_keeps (fun s => s.lines.duty) _
    (fun s n => (congrArg LineUnit.duty (storeSetting_lines n _ s)).trans (writtenLines_duty n _ s).1) _ _

/-- The trim loop starts again with the trim settings' writes, which no later write undoes (R188). -/
theorem writeProfile_trimCount (t : Settings) (s : State) : (writeProfile t s).lines.trimCount = 0 := by
  have hkept (n : SettingId) (v : Int) (u : State) (hu : u.lines.trimCount = 0) : (storeSetting n v u).lines.trimCount = 0 := by
    rw [storeSetting_lines]
    have htrim := writtenLines_trim n v u
    split at htrim
    · exact htrim.1
    · exact htrim.1.trans hu
  obtain ⟨before, after, hall⟩ := List.append_of_mem (mem_allSettings .trimEnable)
  rw [writeProfile, hall, List.foldl_append, List.foldl_cons]
  refine foldl_preserves (fun u => u.lines.trimCount = 0) _ (fun u n hu => hkept n _ u hu) _ _ ?_
  rw [storeSetting_lines]
  rfl

theorem writeProfile_frame (t : Settings) (s : State) : WrittenFrom s (writeProfile t s) :=
  foldl_preserves (WrittenFrom s) _ (fun u n hu => hu.trans (storeSetting_frame n _ u)) _ _ rfl

theorem WrittenFrom.store {s t : State} (h : WrittenFrom s t) : t.store = s.store := by
  unfold WrittenFrom at h
  rw [h]

/-! ### PROFILE RECALL (R182) -/

/-- Marking a slot's tables: installed from the slot when no pass runs, else left pending (R77, R175). -/
theorem markInstall_recall {n : Fin 4} {p : Profile} {s : State} (hp : (s.store.slots.get n).profile = some p) :
    markInstall (.recall n) s = { s with
      kernel := if s.intake.running then s.kernel else p.kernel
      eqSets := if s.intake.running then s.eqSets else p.eqSets
      stager := { s.stager with install := if s.intake.running then .recall n else .none } } := by
  unfold markInstall
  cases hrun : s.intake.running with
  | true => rfl
  | false =>
    simp only [Bool.false_eq_true, if_false, installPending, installTables, hp]

theorem replyProfileRecall_of_range {slot : Byte} (s : State) (h : 3 < slot.toNat) :
    replyProfileRecall slot s = (s, ⟨.range, [0]⟩) := by
  rw [replyProfileRecall, slotOfCode_of_gt h]

/-- What keeps a recall from its slot: the store at work, a load in progress or an installation pending. -/
def RecallBusy (s : State) : Prop := s.store.state ≠ .idle ∨ s.stager.loading = true ∨ s.stager.install ≠ .none

theorem recallBusy_iff (s : State) : RecallBusy s ↔ storeBusy s = true ∨ s.stager.loading = true ∨ s.stager.install ≠ .none := by
  simp [RecallBusy, storeBusy]

theorem replyProfileRecall_of_busy {slot : Byte} {n : Fin 4} {s : State} (hn : n.val = slot.toNat) (h : RecallBusy s) :
    replyProfileRecall slot s = (s, ⟨.busy, [0]⟩) := by
  rw [replyProfileRecall, slotOfCode_of_val hn]
  exact if_pos ((recallBusy_iff s).mp h)

theorem replyProfileRecall_of_invalid {slot : Byte} {n : Fin 4} {s : State} (hn : n.val = slot.toNat) (hfree : ¬ RecallBusy s)
    (h : ∀ p, ¬ Slot.Valid (s.store.slots.get n) p) : replyProfileRecall slot s = (s, ⟨.empty, [0]⟩) := by
  have hinvalid : slotValid (s.store.slots.get n) = false := by
    rw [← Bool.not_eq_true, slotValid_iff]
    exact fun ⟨p, hp⟩ => h p hp
  rw [replyProfileRecall, slotOfCode_of_val hn]
  dsimp only
  rw [if_neg (mt (recallBusy_iff s).mpr hfree), hinvalid]
  rfl

theorem replyProfileRecall_of_valid {slot : Byte} {n : Fin 4} {s : State} {p : Profile} (hn : n.val = slot.toNat)
    (hfree : ¬ RecallBusy s) (h : Slot.Valid (s.store.slots.get n) p) :
    replyProfileRecall slot s = (markInstall (.recall n) (writeProfile p.settings s), ⟨.ok, [slot]⟩) := by
  rw [replyProfileRecall, slotOfCode_of_val hn]
  dsimp only
  rw [if_neg (mt (recallBusy_iff s).mpr hfree), (slotValid_iff _).mpr ⟨p, h⟩, h.1]
  rfl

/-- Settles O39: the refusals in their order, and one profile written. -/
theorem profileRecallWritesTheSettingsTable : Obligations.ProfileRecallWritesTheSettingsTable := by
  unfold Obligations.ProfileRecallWritesTheSettingsTable
  intro h slot s hx
  refine ⟨fun hrange => done_takeDirective_of_executes hx (replyProfileRecall_of_range _ hrange), fun n hn =>
    ⟨fun hbusy => done_takeDirective_of_executes hx (replyProfileRecall_of_busy hn hbusy),
      fun hfree hno => done_takeDirective_of_executes hx (replyProfileRecall_of_invalid hn hfree hno),
      fun p hfree hp => ?recalled⟩⟩
  case recalled =>
    generalize hu : arrived h [0x41, slot] s = u
    have hframe : WrittenFrom u (writeProfile p.settings u) := writeProfile_frame p.settings u
    have hsettings := writeProfile_settings p.settings u
    have htrackers := writeProfile_trackers p.settings u
    have hflags := writeProfile_flags p.settings u
    have hpause := writeProfile_pauseRequest p.settings u
    have htrim := writeProfile_trimCount p.settings u
    have hduty := writeProfile_duty p.settings u
    have hreply : replyProfileRecall slot u = (markInstall (.recall n) (writeProfile p.settings u), ⟨.ok, [slot]⟩) := by
      subst hu
      exact replyProfileRecall_of_valid hn hfree hp
    have hslot : ((writeProfile p.settings u).store.slots.get n).profile = some p := by
      rw [hframe.store, ← hu]
      exact hp.1
    rw [markInstall_recall hslot] at hreply
    generalize writeProfile p.settings u = w at hframe hsettings htrackers hflags hpause htrim hduty hreply
    subst hu
    refine ⟨_, done_takeDirective_of_executes hx hreply, ?frame, htrackers, hflags, hpause, htrim, hduty⟩
    case frame =>
      unfold WrittenFrom at hframe
      rw [← hsettings, hframe]
      rfl

/-! ### The autoload (R183, R184) -/

theorem noteFault_flags (fault : Bool) (s : State) :
    (noteFault fault s).flags.getLsbD 8 = (fault || s.flags.getLsbD 8) := by
  cases fault with
  | false => rfl
  | true => exact (raise_flags_get .profileFault .profileFault s).trans (Bool.or_comm _ _)

/-- A profile written leaves the flag of PROFILE_FAULT: it can raise LINK_DEGRADED alone. -/
theorem writeProfile_profileFault (t : Settings) (s : State) : (writeProfile t s).flags.getLsbD 8 = s.flags.getLsbD 8 := by
  rw [writeProfile_flags]
  split
  · simp
  · rfl

theorem noteFault_frame (fault : Bool) (s : State) : WrittenFrom s (noteFault fault s) := by
  cases fault <;> rfl

theorem autoload_eq (s : State) : autoload s = finishAutoload (autoloadChoice s.store).1 (autoloadChoice s.store).2.1
    (writeProfile (autoloadChoice s.store).1.settings (noteFault (autoloadChoice s.store).2.2 s)) := rfl

/-- What the autoload leaves, over the profile it chose. -/
theorem autoload_frame (s : State) : autoload s = { s with
    unit := { s.unit with
      phase := .running, startUpMs := 6, autoload := (autoloadChoice s.store).2.1, serial := serialOf s.store }
    settings := (autoloadChoice s.store).1.settings
    kernel := (autoloadChoice s.store).1.kernel
    eqSets := (autoloadChoice s.store).1.eqSets
    intake := { s.intake with applied := (autoloadChoice s.store).1.settings.pending }
    flags := (autoload s).flags, notices := (autoload s).notices, trackers := (autoload s).trackers
    lines := (autoload s).lines } := by
  rw [autoload_eq]
  generalize autoloadChoice s.store = c
  have hframe := (noteFault_frame c.2.2 s).trans (writeProfile_frame c.1.settings (noteFault c.2.2 s))
  have hsettings := writeProfile_settings c.1.settings (noteFault c.2.2 s)
  generalize writeProfile c.1.settings (noteFault c.2.2 s) = w at hframe hsettings
  unfold WrittenFrom at hframe
  rw [← hsettings, hframe]
  rfl

theorem autoload_flags (s : State) :
    (autoload s).flags.getLsbD 8 = ((autoloadChoice s.store).2.2 || s.flags.getLsbD 8) := by
  rw [autoload_eq]
  generalize autoloadChoice s.store = c
  have hflags := (writeProfile_profileFault c.1.settings (noteFault c.2.2 s)).trans (noteFault_flags c.2.2 s)
  generalize writeProfile c.1.settings (noteFault c.2.2 s) = w at hflags
  exact hflags

/-- The rows of R184's table. -/
theorem autoloadChoice_of_named {x : ProfileStore} (hheader : x.header ≠ 0) (h : slotValid (x.slots.get x.header) = true) :
    autoloadChoice x = ((x.slots.get x.header).profile.getD factoryProfile, .default, !slotValid (x.slots.get 0)) :=
  if_pos ⟨hheader, h⟩

theorem autoloadChoice_of_fallback {x : ProfileStore} (hheader : x.header ≠ 0) (h : slotValid (x.slots.get x.header) = false)
    (hzero : slotValid (x.slots.get 0) = true) :
    autoloadChoice x = ((x.slots.get 0).profile.getD factoryProfile, .factory, true) := by
  refine (if_neg fun hn => by simp [h] at hn).trans ((if_pos hzero).trans ?_)
  rw [if_neg hheader, bne_iff_ne.mpr hheader]
  rfl

theorem autoloadChoice_of_zero {x : ProfileStore} (hheader : x.header = 0) (hzero : slotValid (x.slots.get 0) = true) :
    autoloadChoice x = ((x.slots.get 0).profile.getD factoryProfile, .default, false) := by
  refine (if_neg fun hn => hn.1 hheader).trans ((if_pos hzero).trans ?_)
  rw [if_pos hheader, hheader]
  rfl

theorem autoloadChoice_of_none {x : ProfileStore} (h : slotValid (x.slots.get x.header) = false)
    (hzero : slotValid (x.slots.get 0) = false) : autoloadChoice x = (factoryProfile, .builtin, true) :=
  (if_neg fun hn => by simp [h] at hn).trans (if_neg (by rw [show x.slots.q0 = x.slots.get 0 from rfl, hzero]; decide))

/-- A slot is valid after contents are lost when it was and its own are not (R178, log 12). -/
theorem slotValid_damageSlots (damaged : BitVec 4) (x : ProfileStore) (n : Fin 4) :
    slotValid ((damageSlots damaged x).slots.get n) = true ↔
      damaged.getLsbD n.val = false ∧ ∃ p, Slot.Valid (x.slots.get n) p := by
  unfold damageSlots
  rw [Quad.get_tabulate]
  cases damaged.getLsbD n.val with
  | true => simp
  | false => simp [slotValid_iff]

theorem damageSlots_slot {damaged : BitVec 4} (x : ProfileStore) {n : Fin 4} (h : damaged.getLsbD n.val = false) :
    (damageSlots damaged x).slots.get n = x.slots.get n := by
  unfold damageSlots
  rw [Quad.get_tabulate, h]
  rfl

/-- A valid slot's profile is the one used of it. -/
theorem some_getD_of_slotValid {x : Slot} (h : slotValid x = true) : some (x.profile.getD factoryProfile) = x.profile := by
  obtain ⟨p, hp, -⟩ := (slotValid_iff x).mp h
  rw [hp]
  rfl

/-- Settles O8: the row of R184's table fixes the profile, the outcome and the fault; the rest is the autoload's frame. -/
theorem autoloadFollowsTheTable : Obligations.AutoloadFollowsTheTable := by
  unfold Obligations.AutoloadFollowsTheTable
  intro damaged s hphase
  generalize hx : damageSlots damaged s.store = x
  have hexec : exec (.autoloadComplete damaged) s = done (autoload { s with store := x }) := by
    rw [← hx]
    exact congrArg done (if_pos hphase)
  have hframe := autoload_frame { s with store := x }
  have hflags := autoload_flags { s with store := x }
  generalize autoload { s with store := x } = t at hexec hframe hflags
  have hvalid (n : Fin 4) : slotValid (x.slots.get n) = true ↔
      damaged.getLsbD n.val = false ∧ ∃ p, Slot.Valid (s.store.slots.get n) p := by
    rw [← hx]
    exact slotValid_damageSlots damaged s.store n
  have hinvalid (n : Fin 4) (h : ¬ (damaged.getLsbD n.val = false ∧ ∃ p, Slot.Valid (s.store.slots.get n) p)) :
      slotValid (x.slots.get n) = false := Bool.eq_false_iff.mpr (mt (hvalid n).mp h)
  have hprofile (n : Fin 4) : (x.slots.get n).profile = (s.store.slots.get n).profile := by
    rw [← hx]
    exact damageSlots_profile damaged s.store n
  have hheader : x.header = s.store.header := by rw [← hx]; rfl
  have hloads {p : Profile} {outcome : AutoloadOutcome} {fault : Bool} (hc : autoloadChoice x = (p, outcome, fault))
      {q : Option Profile} (hq : some p = q) {f : Prop} (hf : f ↔ fault = true) :
      some (⟨t.settings, t.kernel, t.eqSets⟩ : Profile) = q ∧ t.unit.autoload = outcome ∧
        (f → t.flags.getLsbD 8 = true) ∧ (¬ f → t.flags.getLsbD 8 = s.flags.getLsbD 8) := by
    simp only [hc] at hframe hflags
    rw [hflags]
    refine ⟨?_, by rw [hframe], fun h => by rw [hf.mp h, Bool.true_or], fun h => ?_⟩
    · rw [hframe]
      exact hq
    · rw [Bool.eq_false_iff.mpr (mt hf.mpr h), Bool.false_or]
  refine ⟨_, hexec, ?named, ?namedAlone, ?fallback, ?zero, ?builtin, ?frame⟩
  case named =>
    intro hne hh h0
    have hv := (hvalid _).mpr hh
    rw [← hheader] at hv hne ⊢
    refine hloads (autoloadChoice_of_named hne hv) ((some_getD_of_slotValid hv).trans (hprofile _)) ?_
    rw [(hvalid 0).mpr h0]
    simp
  case namedAlone =>
    intro hne hh h0
    have hv := (hvalid _).mpr hh
    rw [← hheader] at hv hne ⊢
    refine hloads (autoloadChoice_of_named hne hv) ((some_getD_of_slotValid hv).trans (hprofile _)) ?_
    rw [hinvalid 0 h0]
    simp
  case fallback =>
    intro hne hh h0
    have hv := hinvalid _ hh
    have hv0 := (hvalid 0).mpr h0
    rw [← hheader] at hv hne
    exact hloads (autoloadChoice_of_fallback hne hv hv0) ((some_getD_of_slotValid hv0).trans (hprofile _)) (by simp)
  case zero =>
    intro hzero h0
    have hv0 := (hvalid 0).mpr h0
    rw [← hheader] at hzero
    exact hloads (autoloadChoice_of_zero hzero hv0) ((some_getD_of_slotValid hv0).trans (hprofile _)) (by simp)
  case builtin =>
    intro hh h0
    have hv := hinvalid _ hh
    rw [← hheader] at hv
    exact hloads (autoloadChoice_of_none hv (hinvalid 0 h0)) rfl (by simp)
  case frame =>
    refine ⟨?unit, fun h0 => ?serial, fun h0 => ?noSerial, ?intake, ?header, ?state, fun n hn => ?kept, fun n hn p hp => ?lost, ?all⟩
    case unit => rw [hframe]; rfl
    case serial =>
      rw [hframe]
      refine (if_pos ((hvalid 0).mpr h0)).trans ?_
      rw [← hx, show (damageSlots damaged s.store).slots.q0 = (damageSlots damaged s.store).slots.get 0 from rfl,
        damageSlots_slot s.store h0.1]
    case noSerial =>
      rw [hframe]
      exact if_neg (by rw [show x.slots.q0 = x.slots.get 0 from rfl, hinvalid 0 h0]; decide)
    case intake => rw [hframe]; rfl
    case header =>
      rw [hframe]
      exact hheader
    case state =>
      rw [hframe, ← hx]
      rfl
    case kept =>
      rw [hframe, ← hx]
      exact damageSlots_slot s.store hn
    case lost =>
      rw [hframe, ← hx] at hp
      exact absurd (((slotValid_damageSlots damaged s.store n).mp ((slotValid_iff _).mpr ⟨p, hp⟩)).1) (by simp [hn])
    case all =>
      rw [hframe]
      rfl

end Sys2Proof.Machine
end

section
/-! MAP INSERT (R109 to R111): the five checks in the terms of the claims, and the insertion as an edit of the map. -/

namespace Sys2Proof.Machine

/-! ### FORM (R110) -/

theorem wholeSide_iff (lanes : Byte) : wholeSide lanes = true ↔ lanes = 3 ∨ lanes = 12 := by
  simp [wholeSide]

/-- A lane set of four bits lies within one side when it is the first lanes' two, or one or both of the others'. -/
theorem withinSide_iff {lanes : Byte} (hne : lanes ≠ 0) (h : lanes.toNat ≤ 15) :
    withinSide lanes = true ↔ lanes.toNat ≤ 3 ∨ lanes = 4 ∨ lanes = 8 ∨ lanes = 12 := by
  have hall : ∀ n < 16, n ≠ 0 → (withinSide (BitVec.ofNat 8 n) = true ↔ n ≤ 3 ∨ n = 4 ∨ n = 8 ∨ n = 12) := by decide
  have hn := hall lanes.toNat (by omega) (fun h0 => hne (BitVec.eq_of_toNat_eq h0))
  rw [BitVec.ofNat_toNat, BitVec.setWidth_eq] at hn
  rw [hn]
  simp only [← BitVec.toNat_inj]
  rfl

/-- The rules of R110 that follow the class: its lane set and its parameter. -/
def ClassFits (code : Nat) (lanes : Byte) (param : BitVec 32) : Prop :=
  match code with
  | 0 => param.toNat ≤ 255
  | 1 => param.toNat ≤ 3
  | 2 => (lanes = 3 ∨ lanes = 12) ∧ param.toNat ≤ 1
  | 3 => (lanes = 3 ∨ lanes = 12) ∧ -134217728 ≤ param.toInt ∧ param.toInt ≤ 134217728
  | 4 => param.toNat ≤ 65535
  | 5 => param.toNat ≤ 3
  | 6 => (lanes.toNat ≤ 3 ∨ lanes = 4 ∨ lanes = 8 ∨ lanes = 12) ∧ param.toNat ≤ 65535
  | _ => False

theorem repairModeOfCode_isSome_iff (n : Nat) : (repairModeOfCode n).isSome = true ↔ n ≤ 3 := by
  by_cases h : n ≤ 3
  · have hall : ∀ k ≤ 3, (repairModeOfCode k).isSome = true := by decide
    exact iff_of_true (hall n h) h
  · obtain ⟨k, rfl⟩ := Nat.exists_eq_add_of_le' (show 4 ≤ n by omega)
    exact iff_of_false Bool.false_ne_true h

/-- A known class's rules are those of its code. -/
theorem classRules_iff {n : Nat} {c : MapClass} (hc : mapClassOfCode n = some c) {lanes : Byte} (hne : lanes ≠ 0)
    (hle : lanes.toNat ≤ 15) (param : BitVec 32) : classRules c lanes param = true ↔ ClassFits n lanes param := by
  unfold mapClassOfCode at hc
  split at hc
  case h_8 => cases hc
  all_goals
    cases hc
    simp [classRules, ClassFits, wholeSide_iff, withinSide_iff hne hle, repairModeOfCode_isSome_iff, and_assoc]

theorem classFits_known {n : Nat} {lanes : Byte} {param : BitVec 32} (h : ClassFits n lanes param) :
    ∃ c, mapClassOfCode n = some c := by
  unfold ClassFits at h
  split at h
  case h_8 => exact h.elim
  all_goals exact ⟨_, rfl⟩

theorem formCheck_of_known {cls lanes : Byte} {start stop param : BitVec 32} {c : MapClass}
    (hc : mapClassOfCode cls.toNat = some c) : formCheck cls lanes start stop param =
      if lanes != 0 && decide (lanes.toNat ≤ 15) && classRules c lanes param && decide (start.toNat < stop.toNat) then some c
      else none := by
  rw [formCheck, hc]

/-- FORM passes exactly when every rule of R110 is obeyed, and then names the class. -/
theorem formCheck_iff (cls lanes : Byte) (start stop param : BitVec 32) (c : MapClass) :
    formCheck cls lanes start stop param = some c ↔
      mapClassOfCode cls.toNat = some c ∧ FormOk cls lanes start stop param := by
  cases hc : mapClassOfCode cls.toNat with
  | none => simp [formCheck, hc]
  | some k =>
    rw [formCheck_of_known hc]
    constructor
    · intro h
      split at h
      · next hform =>
        cases h
        simp only [Bool.and_eq_true, bne_iff_ne, decide_eq_true_eq] at hform
        obtain ⟨⟨⟨hne, hle⟩, hrules⟩, hspan⟩ := hform
        exact ⟨rfl, hne, hle, hspan, (classRules_iff hc hne hle param).mp hrules⟩
      · cases h
    · rintro ⟨hk, hne, hle, hspan, hfits⟩
      have hrules := (classRules_iff hc hne hle param).mpr hfits
      rw [hrules, decide_eq_true hle, decide_eq_true hspan, bne_iff_ne.mpr hne]
      exact hk

/-! ### FULL, CONFLICT and CROWDED (R106, R111) -/

/-- The id found is the lowest that no entry holds. -/
theorem freeIdFrom_lowest {es : List MapEntry} {i n k : Nat} (h : freeIdFrom es i n = some k) :
    ∀ j, i ≤ j → j < k → ∃ f ∈ es, f.id = j := by
  induction n generalizing i with
  | zero => cases h
  | succ n ih =>
    unfold freeIdFrom at h
    intro j hij hjk
    split at h
    · next hheld =>
      obtain rfl | hlt := Nat.eq_or_lt_of_le hij
      · obtain ⟨f, hf, hid⟩ := List.any_eq_true.mp hheld
        exact ⟨f, hf, beq_iff_eq.mp hid⟩
      · exact ih h j hlt hjk
    · cases h
      omega

theorem held_of_freeIdFrom_none {es : List MapEntry} {i n : Nat} (h : freeIdFrom es i n = none) :
    ∀ j, i ≤ j → j < i + n → ∃ f ∈ es, f.id = j := by
  induction n generalizing i with
  | zero => exact fun j _ _ => by omega
  | succ n ih =>
    unfold freeIdFrom at h
    intro j hij hjk
    split at h
    · next hheld =>
      obtain rfl | hlt := Nat.eq_or_lt_of_le hij
      · obtain ⟨f, hf, hid⟩ := List.any_eq_true.mp hheld
        exact ⟨f, hf, beq_iff_eq.mp hid⟩
      · exact ih h j hlt (by omega)
    · cases h

/-- While fewer than 512 entries are held some id is free. -/
theorem freeId_of_room {es : List MapEntry} (h : es.length < 512) : ∃ k, freeId es = some k := by
  cases hfree : freeId es with
  | some k => exact ⟨k, rfl⟩
  | none =>
    have hsub : List.range 512 ⊆ es.map (·.id) := fun j hj => by
      obtain ⟨f, hf, hid⟩ := held_of_freeIdFrom_none hfree j (Nat.zero_le _) (by rw [List.mem_range] at hj; omega)
      exact List.mem_map.mpr ⟨f, hf, hid⟩
    have hlen := (List.nodup_range.subperm hsub).length_le
    rw [List.length_range, List.length_map] at hlen
    omega

theorem conflicts_iff (s : State) (e : MapEntry) : conflicts s.map.entries e = true ↔ Conflict s e := by
  unfold conflicts Conflict
  simp [List.any_eq_true, and_assoc]

/-- A lane covered four times somewhere in the range is so at a count point of it (log 24). -/
theorem crowded_iff {s : State} {e : MapEntry} (hs : MapShaped s) (hspan : e.start < e.stop) :
    crowded s.map.entries e = true ↔ Crowded s e := by
  obtain ⟨-, -, -, -, -, hcovered⟩ := (mapShaped_iff s).mp hs
  unfold Crowded
  constructor
  · intro h
    obtain ⟨l, -, hl⟩ := List.any_eq_true.mp h
    rw [Bool.and_eq_true, List.any_eq_true] at hl
    obtain ⟨hlane, y, hy, hcount⟩ := hl
    refine ⟨l, y, (covers_iff e l y).mpr ⟨hlane, ?_⟩, by have := of_decide_eq_true hcount; omega⟩
    obtain rfl | hy := List.mem_cons.mp hy
    · exact ⟨Nat.le_refl _, hspan⟩
    · simpa using (List.mem_filter.mp hy).2
  · rintro ⟨l, x, hcover, hcount⟩
    by_contra hno
    have hle := coverCount_cons_le hcovered (Bool.eq_false_iff.mpr hno) l x
    have hcons : coverCount (e :: s.map.entries) l x = coverCount s.map.entries l x + 1 := by
      rw [coverCount, List.filter_cons_of_pos (p := fun f : MapEntry => f.covers l x) hcover]
      rfl
    omega

/-! ### The outcome of the checks (R109) -/

/-- The fields of the entry an insert asks for, under an id. -/
def askedEntry (id : Nat) (c : MapClass) (lanes : Byte) (start stop param : BitVec 32) : MapEntry :=
  ⟨id, c, lanes.setWidth 4, start.toNat, stop.toNat, param⟩

section
variable {cls lanes : Byte} {start stop param : BitVec 32} {s : State} {c : MapClass}

theorem judgeInsert_of_form (h : ¬ FormOk cls lanes start stop param) :
    judgeInsert cls lanes start stop param s = .error .form := by
  have hform : formCheck cls lanes start stop param = none :=
    Option.eq_none_iff_forall_not_mem.mpr fun c hc => h ((formCheck_iff ..).mp hc).2
  rw [judgeInsert, hform]

theorem judgeInsert_of_full (hc : formCheck cls lanes start stop param = some c) (hfull : 512 ≤ s.map.entries.length) :
    judgeInsert cls lanes start stop param s = .error .full := by
  rw [judgeInsert, hc]
  dsimp only
  cases freeId s.map.entries with
  | none => rfl
  | some id => exact if_pos hfull

/-- With room for an entry the three last checks are made on it, under the lowest free id. -/
theorem judgeInsert_of_room (hc : formCheck cls lanes start stop param = some c) (hroom : s.map.entries.length < 512) :
    ∃ id, freeId s.map.entries = some id ∧ judgeInsert cls lanes start stop param s =
      if intersectsSpan s start.toNat stop.toNat then .error .late
      else if conflicts s.map.entries (askedEntry id c lanes start stop param) then .error .conflict
      else if crowded s.map.entries (askedEntry id c lanes start stop param) then .error .crowded
      else .ok (askedEntry id c lanes start stop param) := by
  obtain ⟨id, hid⟩ := freeId_of_room hroom
  refine ⟨id, hid, ?_⟩
  rw [judgeInsert, hc]
  dsimp only
  rw [hid]
  exact if_neg (by omega)

end

theorem replyMapInsert_of_error {cls lanes : Byte} {start stop param : BitVec 32} {s : State} {code : AnswerCode}
    (h : judgeInsert cls lanes start stop param s = .error code) : replyMapInsert cls lanes start stop param s =
      (s, ⟨code, [0, 0] ++ bytesBE 2 s.map.entries.length ++ spanBlock s⟩) := by
  rw [replyMapInsert, h]
  rfl

theorem replyMapInsert_of_ok {cls lanes : Byte} {start stop param : BitVec 32} {s : State} {e : MapEntry}
    (h : judgeInsert cls lanes start stop param s = .ok e) : replyMapInsert cls lanes start stop param s =
      (setEntries (insertEntry e s.map.entries) s,
        ⟨.ok, bytesBE 2 e.id ++ bytesBE 2 (s.map.entries.length + 1) ++ spanBlock s⟩) := by
  rw [replyMapInsert, h]
  dsimp only
  rw [setEntries_entries, (insertEntry_perm e s.map.entries).length_eq, List.length_cons]

/-- Settles O29: the outcome of the checks in their order, and the insertion as an edit of the map. -/
theorem mapInsertChecksInOrder : Obligations.MapInsertChecksInOrder := by
  unfold Obligations.MapInsertChecksInOrder
  intro h cls lanes start stop param s hx body refusedWith
  have hrefused {code : AnswerCode} (hjudge : judgeInsert cls lanes start stop param (arrived h body s) = .error code) :
      refusedWith code := done_takeDirective_of_executes hx (replyMapInsert_of_error hjudge)
  refine ⟨fun hform => hrefused (judgeInsert_of_form hform), fun hform => ?asked⟩
  case asked =>
    obtain ⟨hne, hle, hspan, hfits⟩ := id hform
    obtain ⟨c, hknown⟩ := classFits_known hfits
    have hc : formCheck cls lanes start stop param = some c := (formCheck_iff ..).mpr ⟨hknown, hform⟩
    have hlateIff := intersectsSpan_iff_late (arrived h body s) start.toNat stop.toNat
    have hconflictIff (id : Nat) := conflicts_iff (arrived h body s) (askedEntry id c lanes start stop param)
    have hcrowdedIff (id : Nat) (hs : MapShaped s) :=
      crowded_iff (s := arrived h body s) (e := askedEntry id c lanes start stop param) hs hspan
    refine ⟨c, hknown, fun hfull => hrefused (judgeInsert_of_full hc hfull), fun hroom hlate => ?late,
      fun hroom hfree hconflict => ?conflict, fun hroom hfree hno hs hcrowded => ?crowded,
      fun hroom hfree hno hs hclear => ?accepted⟩
    case late =>
      obtain ⟨id, -, hjudge⟩ := judgeInsert_of_room (s := arrived h body s) hc hroom
      exact hrefused (hjudge.trans (if_pos (hlateIff.mpr hlate)))
    case conflict =>
      obtain ⟨id, -, hjudge⟩ := judgeInsert_of_room (s := arrived h body s) hc hroom
      rw [if_neg (mt hlateIff.mp hfree), if_pos ((hconflictIff id).mpr hconflict)] at hjudge
      exact hrefused hjudge
    case crowded =>
      obtain ⟨id, -, hjudge⟩ := judgeInsert_of_room (s := arrived h body s) hc hroom
      rw [if_neg (mt hlateIff.mp hfree), if_neg (mt (hconflictIff id).mp hno), if_pos ((hcrowdedIff id hs).mpr hcrowded)] at hjudge
      exact hrefused hjudge
    case accepted =>
      obtain ⟨id, hid, hjudge⟩ := judgeInsert_of_room (s := arrived h body s) hc hroom
      rw [if_neg (mt hlateIff.mp hfree), if_neg (mt (hconflictIff id).mp hno), if_neg (mt (hcrowdedIff id hs).mp hclear)] at hjudge
      obtain ⟨t, hexec, hentries, hframe, hintake, hside⟩ := done_takeDirective_of_edit hx (replyMapInsert_of_ok hjudge)
      obtain ⟨hbound, hunheld⟩ := freeId_spec hid
      obtain ⟨-, horder, -, -, -, -⟩ := (mapShaped_iff s).mp hs
      refine ⟨t, id, hexec, hbound, hunheld, fun j hj => freeIdFrom_lowest hid j (Nat.zero_le _) hj, ?_, ?_, hframe, hintake, hside⟩
      · rw [hentries]
        exact insertEntry_perm _ _
      · rw [hentries]
        refine (insertEntry_ordered horder fun f hf he => hunheld f hf he.symm).imp fun hbefore => ?_
        exact (mapBefore_iff _ _).mp hbefore

end Sys2Proof.Machine
end

section
/-! Installations (R77, R175), the ends of a load (R172 to R174), and what the stream only adds to: flags, notices and damage
records. -/

namespace Sys2Proof.Machine

/-! ### The installation pending (R175) -/

theorem installPending_eq (s : State) : installPending s = installed s := by
  unfold installPending installTables installed tablesInstalled
  dsimp only
  rcases s.stager.install with _ | c | n
  · rfl
  · cases c <;> rfl
  · dsimp only
    cases (s.store.slots.get n).profile <;> rfl

/-- What an installation is made from. -/
def State.tablesView (s : State) : List Int × Quad (List Int) × Stager × ProfileStore :=
  (s.kernel, s.eqSets, s.stager, s.store)

theorem tablesInstalled_of_view {s t : State} (h : s.tablesView = t.tablesView) : tablesInstalled s = tablesInstalled t := by
  simp only [State.tablesView, Prod.mk.injEq] at h
  obtain ⟨hkernel, hsets, hstager, hstore⟩ := h
  unfold tablesInstalled
  rw [hkernel, hsets, hstager, hstore]

theorem productionKeeps_tablesView : ProductionKeeps State.tablesView where
  lanes _ _ := rfl
  sides _ _ := rfl
  partials _ _ := rfl
  queues _ _ := rfl
  counters _ _ := rfl
  raised _ _ := rfl
  resamplers _ _ := rfl
  repairs _ _ := rfl
  cues _ _ := rfl
  trackers _ _ _ := rfl
  walkers _ _ _ := rfl

theorem frameKeeps_tablesView : FrameKeeps State.tablesView where
  history _ _ := rfl
  position _ _ := rfl
  walker _ _ := rfl
  detectors _ _ := rfl
  counters _ _ := rfl
  appended r s := appendDamage_keeps _ (fun _ _ => rfl) (fun _ _ => rfl) (fun _ _ _ => rfl) r s

/-- The tables in use and the stager once the installation pending has been made in a state with these tables. -/
def TablesReplaced (s t : State) : Prop :=
  t.kernel = (tablesInstalled s).1 ∧ t.eqSets = (tablesInstalled s).2 ∧ t.stager = { s.stager with install := .none }

/-- An installation made where the tables stand as they stood. -/
theorem tablesReplaced_of_view {s t : State} (h : t.tablesView = s.tablesView) : TablesReplaced s (installPending t) := by
  rw [installPending_eq, TablesReplaced, ← tablesInstalled_of_view h]
  exact ⟨rfl, rfl, congrArg (fun v => { v.2.2.1 with install := .none }) h⟩

theorem closePass_tables {s t : State} (h : t.tablesView = s.tablesView) : TablesReplaced s (closePass t) :=
  tablesReplaced_of_view (by exact h)

theorem endDetectors_tablesView (s : State) : (endDetectors s).tablesView = s.tablesView :=
  endDetectors_keeps _ (fun _ _ => rfl) (fun _ _ => rfl) frameKeeps_tablesView.appended s

/-- Both ends of a pass make the installation pending. -/
theorem flushedEnd_tables (s : State) : TablesReplaced s (flushedEnd s) :=
  closePass_tables ((foldl_keeps State.tablesView _ (flushSide_keeps productionKeeps_tablesView.toEqKeeps) _ _).trans
    (endDetectors_tablesView s))

theorem discardingEnd_tables (s : State) : TablesReplaced s (discardingEnd s) :=
  closePass_tables ((foldl_keeps State.tablesView _ (discardSide_keeps productionKeeps_tablesView.toEqKeeps) _ _).trans
    (endDetectors_tablesView s))

/-- A boundary ends with the installation pending (R77). -/
theorem boundary_tables {s t : State} (h : t.tablesView = s.tablesView) : TablesReplaced s (boundary t) := by
  refine tablesReplaced_of_view ((foldl_keeps State.tablesView _ (fun u w => ?_) _ _).trans h)
  cases w with
  | update d => exact updateTracker_keeps _ (fun _ _ => rfl) (fun _ _ => rfl) (fun _ _ => rfl) (fun _ _ => rfl) d u
  | produce d => exact production_keeps productionKeeps_tablesView d u

theorem admitParcel_tables (p : Nat) (fs : List RawFrame) (s : State) : TablesReplaced s (admitParcel p fs s) :=
  boundary_tables (writeFrames_keeps frameKeeps_tablesView p _ (withCounters _ s))

/-! ### A RAW parcel taken (R8, R19 to R27) -/

theorem exec_rawParcel_of_running (first : BitVec 32) (frames : Vector RawFrame 16) {s : State} (h : s.unit.phase = .running) :
    exec (.rawParcel first frames) s = done (takeRaw first.toNat frames.toList (countReceived .U s)) := by
  show done (if receiving s then _ else s) = _
  rw [if_pos (by simp [receiving, h])]

section
variable {p : Nat} {fs : List RawFrame} {s : State}

theorem takeRaw_of_not_play (h : s.intake.transport ≠ .play) :
    takeRaw p fs s = withCounters (fun c => { c with rawDiscarded := countUp c.rawDiscarded 1 }) s := if_pos h

theorem takeRaw_of_above (hplay : s.intake.transport = .play) (h : 4294967280 < p) :
    takeRaw p fs s = endIfRunning (noteBreak s) := by
  rw [takeRaw, if_neg (not_not.mpr hplay), if_pos h]

theorem takeRaw_of_idle (hplay : s.intake.transport = .play) (h : p ≤ 4294967280) (hidle : s.intake.running = false) :
    takeRaw p fs s = startWith p fs s := by
  rw [takeRaw, if_neg (not_not.mpr hplay), if_neg (by omega), hidle]
  rfl

theorem takeRaw_of_running (hplay : s.intake.transport = .play) (h : p ≤ 4294967280) (hrun : s.intake.running = true) :
    takeRaw p fs s = continueWith p fs s := by
  rw [takeRaw, if_neg (not_not.mpr hplay), if_neg (by omega), hrun, if_pos rfl]

theorem continueWith_of_expected (h : s.intake.expected = some p) : continueWith p fs s = admitParcel p fs s := by
  rw [continueWith, h]
  exact if_pos rfl

end

/-! ### LOAD END, LOAD CANCEL and the load timer (R172 to R174) -/

theorem replyLoadEnd_of_none {sum : BitVec 32} {s : State} (h : s.stager.loading = false) :
    replyLoadEnd sum s = (s, ⟨.noload, bytesBE 4 sum.toNat ++ bytesBE 4 s.stager.sum.toNat⟩) := by
  rw [replyLoadEnd, h]
  rfl

theorem replyLoadEnd_of_check {sum : BitVec 32} {s : State} (h : s.stager.loading = true)
    (hcheck : s.stager.next < s.stager.expected ∨ sum ≠ s.stager.sum) :
    replyLoadEnd sum s = (abandonWithEvent s, ⟨.check, bytesBE 4 sum.toNat ++ bytesBE 4 s.stager.sum.toNat⟩) := by
  rw [replyLoadEnd, h]
  exact if_pos hcheck

theorem replyLoadEnd_of_ok {sum : BitVec 32} {s : State} {c : TableCode} (h : s.stager.loading = true)
    (hall : s.stager.expected ≤ s.stager.next) (hsum : sum = s.stager.sum) (hc : s.stager.table = some c) :
    replyLoadEnd sum s =
      (markInstall (.load c) (abandonLoad s), ⟨.ok, bytesBE 4 sum.toNat ++ bytesBE 4 s.stager.sum.toNat⟩) := by
  have hno : ¬ (s.stager.next < s.stager.expected ∨ sum ≠ s.stager.sum) := by
    rintro (hshort | hne)
    · omega
    · exact hne hsum
  rw [replyLoadEnd, h, hc]
  exact if_neg hno

/-- A load's table marked: installed at once when no pass runs, else left pending (R77, R175). -/
theorem markInstall_load (c : TableCode) (s : State) : markInstall (.load c) s =
    if s.intake.running then { s with stager := { s.stager with install := .load c } }
    else { s with
      stager := { s.stager with install := .none }
      kernel := if c = .kernel then s.stager.staging else s.kernel
      eqSets := match c with
        | .kernel => s.eqSets
        | .eq n => s.eqSets.set n (s.stager.staging.take 32) } := by
  unfold markInstall
  dsimp only
  split
  · rfl
  · cases c <;> rfl

/-- Settles O35: each end of a load by its case, and the installation at the end of a boundary and of a pass. -/
theorem loadsEndMarkedOrAbandoned : Obligations.LoadsEndMarkedOrAbandoned := by
  unfold Obligations.LoadsEndMarkedOrAbandoned
  intro h sum s
  refine ⟨fun hx => ⟨fun hload => ⟨?noload, ?nocancel⟩, fun hload hcheck => ?check, fun hload hall hsum c hc => ?ok,
    fun hload => ?cancel⟩, fun hload => ?expired, fun hload => ?quiet, fun first frames hphase hplay hrun hexpected hfirst => ?parcel,
    fun u hu => ?ended⟩
  case noload => exact done_takeDirective_of_executes hx (replyLoadEnd_of_none hload)
  case nocancel =>
    refine done_takeDirective_of_executes (body := [0x23]) (act := replyLoadCancel) hx (if_neg ?_)
    exact Bool.eq_false_iff.mp hload
  case check => exact ⟨_, done_takeDirective_of_executes hx (replyLoadEnd_of_check hload hcheck), rfl⟩
  case ok =>
    have hreply := replyLoadEnd_of_ok (s := arrived h ([0x22] ++ bytesBE 4 sum.toNat) s) hload hall hsum hc
    rw [markInstall_load] at hreply
    exact done_takeDirective_of_executes hx hreply
  case cancel => exact done_takeDirective_of_executes (body := [0x23]) (act := replyLoadCancel) hx (if_pos hload)
  case expired =>
    exact ⟨_, congrArg done (if_pos hload), rfl⟩
  case quiet => exact congrArg done (if_neg (Bool.eq_false_iff.mp hload))
  case parcel =>
    refine ⟨_, exec_rawParcel_of_running first frames hphase, ?_⟩
    rw [takeRaw_of_running (s := countReceived .U s) hplay hfirst hrun, continueWith_of_expected (s := countReceived .U s) hexpected]
    exact admitParcel_tables _ _ (countReceived .U s)
  case ended =>
    obtain rfl | rfl := hu
    · exact flushedEnd_tables s
    · exact discardingEnd_tables s

end Sys2Proof.Machine
end

section
/-! A tail flush (R136 to R140): the delays of a side take in 31 zeros, its frames leave in order, and fill CLEAN parcels by
sixteens. -/

namespace Sys2Proof.Machine

/-! ### The assembler and the clean queue of a side (R138 to R140) -/

/-- A side's partial parcel, its clean queue and the count of its parcels discarded. -/
structure CleanOut where
  frames : List CleanFrame
  queue : List CleanParcel
  lost : BitVec 32

/-- Those of a side in a state. -/
def cleanOut (d : Side) (s : State) : CleanOut :=
  ⟨s.partials.get d, s.cleanQueues.get d, s.counters.cleanDiscarded.get d⟩

/-- A parcel completed, with Port D in a link state: queued or discarded and counted (R140). -/
def CleanOut.push (port : LinkState) (o : CleanOut) (p : CleanParcel) : CleanOut :=
  if port = .up ∧ o.queue.length < 4 then { o with queue := o.queue ++ [p] } else { o with lost := countUp o.lost 1 }

/-- The partial parcel completed, if it holds any frame (R139). -/
def CleanOut.complete (port : LinkState) (mk : List CleanFrame → CleanParcel) (o : CleanOut) : CleanOut :=
  if o.frames = [] then o else ({ o with frames := [] } : CleanOut).push port (mk o.frames)

/-- A frame joins, and the sixteenth completes the parcel (R138). -/
def CleanOut.join (port : LinkState) (mk : List CleanFrame → CleanParcel) (o : CleanOut) (f : CleanFrame) : CleanOut :=
  if 16 ≤ (o.frames ++ [f]).length then ({ o with frames := o.frames ++ [f] } : CleanOut).complete port mk
  else { o with frames := o.frames ++ [f] }

theorem cleanOut_queueClean (d e : Side) (p : CleanParcel) (s : State) : cleanOut e (queueClean d p s) =
    if e = d then (cleanOut d s).push s.link.link.d p else cleanOut e s := by
  unfold queueClean
  by_cases hroom : s.link.link.d = .up ∧ (s.cleanQueues.get d).length < 4
  · have hpush : (cleanOut d s).push s.link.link.d p = { cleanOut d s with queue := s.cleanQueues.get d ++ [p] } := if_pos hroom
    rw [if_pos hroom, hpush]
    simp only [cleanOut, PerSide.get_modify]
    split
    · next h => rw [h]
    · rfl
  · have hpush : (cleanOut d s).push s.link.link.d p =
        { cleanOut d s with lost := countUp (s.counters.cleanDiscarded.get d) 1 } := if_neg hroom
    rw [if_neg hroom, hpush]
    simp only [cleanOut, withCounters, PerSide.get_modify]
    split
    · next h => rw [h]
    · rfl

/-- The parcel the assembler makes of some frames is that of R139. -/
theorem cleanParcelOf_eq (d : Side) (f : CleanFrame) (rest : List CleanFrame) (s : State) :
    cleanParcelOf d f (f :: rest) s = parcelOfFrames d s (f :: rest) := rfl

theorem cleanOut_completePartial (d e : Side) (s : State) : cleanOut e (completePartial d s) =
    if e = d then (cleanOut d s).complete s.link.link.d (parcelOfFrames d s) else cleanOut e s := by
  unfold completePartial
  split
  · next hnone =>
    split
    · next h =>
      subst h
      exact (if_pos hnone).symm
    · rfl
  · next f rest hframes =>
    rw [cleanOut_queueClean]
    by_cases he : e = d
    · subst he
      rw [if_pos rfl, if_pos rfl, CleanOut.complete, if_neg (by simp [cleanOut, hframes]), cleanParcelOf_eq]
      simp only [cleanOut, hframes, PerSide.get_set_same]
    · rw [if_neg he, if_neg he]
      simp only [cleanOut, PerSide.get_set, if_neg he]

theorem cleanOut_assemble (d e : Side) (f : CleanFrame) (s : State) : cleanOut e (assemble d f s) =
    if e = d then (cleanOut d s).join s.link.link.d (parcelOfFrames d s) f else cleanOut e s := by
  have hget : (s.partials.modify d (· ++ [f])).get d = s.partials.get d ++ [f] := by rw [PerSide.get_modify, if_pos rfl]
  have hother (he : e ≠ d) : cleanOut e { s with partials := s.partials.modify d (· ++ [f]) } = cleanOut e s := by
    simp only [cleanOut, PerSide.get_modify, if_neg he]
  have hsame : cleanOut d { s with partials := s.partials.modify d (· ++ [f]) } =
      { cleanOut d s with frames := (cleanOut d s).frames ++ [f] } := by
    simp only [cleanOut, hget]
  unfold assemble CleanOut.join
  dsimp only
  rw [hget, show (cleanOut d s).frames = s.partials.get d from rfl]
  by_cases hfull : 16 ≤ (s.partials.get d ++ [f]).length
  · rw [if_pos hfull, if_pos hfull, cleanOut_completePartial]
    by_cases he : e = d
    · rw [if_pos he, if_pos he, hsame]
      rfl
    · rw [if_neg he, if_neg he, hother he]
  · rw [if_neg hfull, if_neg hfull]
    by_cases he : e = d
    · subst he
      rw [if_pos rfl, hsame]
      rfl
    · rw [if_neg he, hother he]

theorem cleanOut_countClip (e : Side) (l : Lane) (f : FlagSet) (s : State) : cleanOut e (countClip l f s) = cleanOut e s := by
  unfold countClip
  split <;> rfl

/-- What the assembler and the equalizer read of the rest of the state, which no output of theirs changes. -/
def State.eqView (s : State) : LinkBlock × Intake × PerSide Tracker × Quad (List Int) := (s.link, s.intake, s.trackers, s.eqSets)

theorem eqKeeps_eqView : EqKeeps State.eqView :=
  ⟨fun _ _ => rfl, fun _ _ => rfl, fun _ _ => rfl, fun _ _ => rfl, fun _ _ => rfl, fun _ _ => rfl⟩

theorem parcelOfFrames_of_view {s t : State} (h : t.eqView = s.eqView) (d : Side) : parcelOfFrames d t = parcelOfFrames d s := by
  simp only [State.eqView, Prod.mk.injEq] at h
  obtain ⟨-, hintake, htrackers, -⟩ := h
  funext frames
  unfold parcelOfFrames
  rw [hintake, htrackers]

theorem countClip_eqView (l : Lane) (f : FlagSet) (s : State) : (countClip l f s).eqView = s.eqView := by
  unfold countClip
  split <;> rfl

theorem cleanOut_putOut (d e : Side) (r : FrameRecord) (s : State) : cleanOut e (putOut d r s) =
    if e = d then (cleanOut d s).join s.link.link.d (parcelOfFrames d s)
      ⟨laneSlot s (s.eqSides.get d).flushing (firstLane d), laneSlot s (s.eqSides.get d).flushing (secondLane d), r⟩
    else cleanOut e s := by
  have hview (f g : FlagSet) : (countClip (secondLane d) f (countClip (firstLane d) g s)).eqView = s.eqView :=
    (countClip_eqView _ _ _).trans (countClip_eqView _ _ _)
  unfold putOut
  rw [cleanOut_assemble, parcelOfFrames_of_view (hview _ _), cleanOut_countClip, cleanOut_countClip, cleanOut_countClip,
    cleanOut_countClip, show (countClip _ _ (countClip _ _ s)).link = s.link from congrArg Prod.fst (hview _ _)]

/-! ### One empty intake of a tail flush (R128, R136) -/

/-- One empty intake of a side. -/
def flushStep (d : Side) (s : State) : State :=
  eqIntake d (flushInput s (firstLane d)) (flushInput s (secondLane d)) none s

theorem flushIntakes_eq (d : Side) (n : Nat) (s : State) : flushIntakes d n s = (flushStep d)^[n] s := by
  induction n generalizing s with
  | zero => rfl
  | succ n ih => exact ih _

/-- A side's frame delay after an intake of nothing. -/
def emptyTaken (q : EqSide) : EqSide :=
  { q with fill := if q.fill < 31 then q.fill + 1 else q.fill, frames := (none :: q.frames).take 31 }

/-- The frame record an intake puts out: none below a fill count of 31. -/
def leaving (q : EqSide) : Option FrameRecord := if q.fill < 31 then none else (q.frames[30]?).join

theorem putOut_eqSides (d : Side) (r : FrameRecord) (s : State) : (putOut d r s).eqSides = s.eqSides ∧
    (putOut d r s).eqLanes = s.eqLanes := by
  have hclip (l : Lane) (f : FlagSet) (t : State) : (countClip l f t).eqSides = t.eqSides ∧ (countClip l f t).eqLanes = t.eqLanes := by
    unfold countClip
    split <;> exact ⟨rfl, rfl⟩
  have hcomplete (t : State) : (completePartial d t).eqSides = t.eqSides ∧ (completePartial d t).eqLanes = t.eqLanes := by
    unfold completePartial
    split
    · exact ⟨rfl, rfl⟩
    · unfold queueClean
      split <;> exact ⟨rfl, rfl⟩
  have hassemble (f : CleanFrame) (t : State) : (assemble d f t).eqSides = t.eqSides ∧ (assemble d f t).eqLanes = t.eqLanes := by
    unfold assemble
    dsimp only
    split
    · exact hcomplete _
    · exact ⟨rfl, rfl⟩
  unfold putOut
  exact ⟨(hassemble _ _).1.trans ((hclip _ _ _).1.trans (hclip _ _ _).1), (hassemble _ _).2.trans ((hclip _ _ _).2.trans (hclip _ _ _).2)⟩

theorem takeLane_eqLanes (l m : Lane) (x : LaneIntake) (s : State) : (takeLane l x s).eqLanes.get m =
    match x with
    | some (sample, r) => if m = l then shiftLane sample r (s.eqLanes.get l) else s.eqLanes.get m
    | none => s.eqLanes.get m := by
  cases x with
  | none => rfl
  | some v =>
    obtain ⟨sample, r⟩ := v
    simp only [takeLane, Quad.get_modify]
    split
    · next h => rw [h]
    · rfl

/-- An intake is the delays moved and then, with a record leaving, its frame put out. -/
theorem eqIntake_eq (d : Side) (a b : LaneIntake) (r : Option FrameRecord) (s : State) :
    ∃ u : State, u = { takeLane (secondLane d) b (takeLane (firstLane d) a s) with
        eqSides := s.eqSides.set d { s.eqSides.get d with
          fill := if (s.eqSides.get d).fill < 31 then (s.eqSides.get d).fill + 1 else (s.eqSides.get d).fill
          frames := (r :: (s.eqSides.get d).frames).take 31 } } ∧
      eqIntake d a b r s = match leaving (s.eqSides.get d) with
        | some oldest => putOut d oldest u
        | none => u := by
  have hsides : (takeLane (secondLane d) b (takeLane (firstLane d) a s)).eqSides = s.eqSides := by
    cases a <;> cases b <;> rfl
  refine ⟨_, rfl, ?_⟩
  unfold eqIntake leaving
  dsimp only
  rw [hsides]
  by_cases hfill : (s.eqSides.get d).fill < 31
  · simp only [if_pos hfill] <;> rfl
  · simp only [if_neg hfill] <;> rfl

theorem sideOf_firstLane (d : Side) : sideOf (firstLane d) = d := by cases d <;> rfl

theorem sideOf_secondLane (d : Side) : sideOf (secondLane d) = d := by cases d <;> rfl

theorem firstLane_ne_secondLane (d : Side) : firstLane d ≠ secondLane d := by cases d <;> decide

/-- A lane is of a side when it is its first or its second. -/
theorem sideOf_eq_iff (l : Lane) (d : Side) : sideOf l = d ↔ l = firstLane d ∨ l = secondLane d := by
  cases d <;> fin_cases l <;> decide

/-- The lanes of a side at work in use take in a zero, and no other lane anything. -/
theorem flushStep_eqLanes (d : Side) (m : Lane) (s : State) : (flushStep d s).eqLanes.get m =
    if inUse s m = true ∧ sideOf m = d then shiftLane 0 none (s.eqLanes.get m) else s.eqLanes.get m := by
  have htaken (l n : Lane) (u : State) : (takeLane l (flushInput s l) u).eqLanes.get n =
      if inUse s l = true ∧ n = l then shiftLane 0 none (u.eqLanes.get n) else u.eqLanes.get n := by
    rw [takeLane_eqLanes, flushInput]
    by_cases hl : inUse s l = true
    · rw [if_pos hl]
      by_cases hn : n = l
      · subst hn
        simp [hl]
      · simp [hn]
    · rw [if_neg hl, if_neg fun h => hl h.1]
  obtain ⟨u, hu, heq⟩ := eqIntake_eq d (flushInput s (firstLane d)) (flushInput s (secondLane d)) none s
  have hlanes : (flushStep d s).eqLanes = u.eqLanes := by
    rw [flushStep, heq]
    split
    · exact (putOut_eqSides _ _ _).2
    · rfl
  rw [hlanes, hu]
  show ((takeLane _ _ (takeLane _ _ s)).eqLanes.get m) = _
  rw [htaken, htaken]
  simp only [sideOf_eq_iff]
  by_cases hfirst : m = firstLane d
  · subst hfirst
    simp [firstLane_ne_secondLane]
  · by_cases hsecond : m = secondLane d
    · subst hsecond
      simp [(firstLane_ne_secondLane d).symm]
    · simp [hfirst, hsecond]

theorem flushStep_eqSides (d e : Side) (s : State) : (flushStep d s).eqSides.get e =
    if e = d then emptyTaken (s.eqSides.get d) else s.eqSides.get e := by
  obtain ⟨u, hu, heq⟩ := eqIntake_eq d (flushInput s (firstLane d)) (flushInput s (secondLane d)) none s
  have hsides : (flushStep d s).eqSides = u.eqSides := by
    rw [flushStep, heq]
    split
    · exact (putOut_eqSides _ _ _).1
    · rfl
  rw [hsides, hu]
  exact PerSide.get_set _ _ _ _

/-- The sample of a lane in an output frame, from its delays. -/
def slotOf (used : Bool) (sets : Quad (List Int)) (tail : Bool) (q : EqLane) : SampleOut :=
  match if used = true then centreRecord q else none with
  | some r => laneOutput sets tail q r
  | none => ⟨0, FlagSet.laneOffOnly⟩

theorem laneSlot_eq (s : State) (tail : Bool) (l : Lane) : laneSlot s tail l = slotOf (inUse s l) s.eqSets tail (s.eqLanes.get l) := by
  unfold laneSlot slotOf
  cases inUse s l <;> rfl

/-- The frame that leaves a side's equalizer at an empty intake. -/
def leavingFrame (d : Side) (s : State) : Option CleanFrame :=
  (leaving (s.eqSides.get d)).map fun r =>
    ⟨slotOf (inUse s (firstLane d)) s.eqSets (s.eqSides.get d).flushing ((flushStep d s).eqLanes.get (firstLane d)),
      slotOf (inUse s (secondLane d)) s.eqSets (s.eqSides.get d).flushing ((flushStep d s).eqLanes.get (secondLane d)), r⟩

/-- The frame that leaves joins the side's partial parcel (R138). -/
theorem flushStep_cleanOut (d e : Side) (s : State) : cleanOut e (flushStep d s) =
    if e = d then (leavingFrame d s).toList.foldl (CleanOut.join s.link.link.d (parcelOfFrames d s)) (cleanOut d s)
    else cleanOut e s := by
  obtain ⟨u, hu, heq⟩ := eqIntake_eq d (flushInput s (firstLane d)) (flushInput s (secondLane d)) none s
  have htake (l : Lane) (x : LaneIntake) (t : State) : (takeLane l x t).eqView = t.eqView ∧ ∀ c, cleanOut c (takeLane l x t) = cleanOut c t := by
    cases x <;> exact ⟨rfl, fun _ => rfl⟩
  have hout (c : Side) : cleanOut c u = cleanOut c s := by
    rw [hu]
    exact ((htake _ _ _).2 c).trans ((htake _ _ _).2 c)
  have hview : u.eqView = s.eqView := by
    rw [hu]
    exact (htake _ _ _).1.trans (htake _ _ _).1
  have hflushing : (u.eqSides.get d).flushing = (s.eqSides.get d).flushing := by
    rw [hu]
    show ((s.eqSides.set d _).get d).flushing = _
    rw [PerSide.get_set_same]
  have hlanes : (flushStep d s).eqLanes = u.eqLanes := by
    rw [flushStep, heq]
    split
    · exact (putOut_eqSides _ _ _).2
    · rfl
  have hslot (l : Lane) : laneSlot u (u.eqSides.get d).flushing l =
      slotOf (inUse s l) s.eqSets (s.eqSides.get d).flushing ((flushStep d s).eqLanes.get l) := by
    simp only [State.eqView, Prod.mk.injEq] at hview
    obtain ⟨-, hintake, -, hsets⟩ := hview
    rw [laneSlot_eq, hlanes, hflushing, hsets, inUse, inUse, hintake]
  unfold leavingFrame
  rw [← hslot, ← hslot]
  rw [flushStep, heq]
  cases leaving (s.eqSides.get d) with
  | none =>
    rw [hout]
    split
    · next h => rw [h]; rfl
    · rfl
  | some r =>
    rw [cleanOut_putOut, parcelOfFrames_of_view hview, hout, hout, show u.link = s.link from congrArg Prod.fst hview]
    rfl

/-! ### Empty intakes one after another (R136) -/

section
variable (d : Side) (s : State) (n : Nat)

theorem flushIntakes_succ : flushIntakes d (n + 1) s = flushStep d (flushIntakes d n s) := by
  rw [flushIntakes_eq, flushIntakes_eq, Function.iterate_succ_apply']

theorem flushIntakes_eqView : (flushIntakes d n s).eqView = s.eqView := flushIntakes_keeps eqKeeps_eqView d n s

theorem flushIntakes_inUse (l : Lane) : inUse (flushIntakes d n s) l = inUse s l :=
  congrArg (fun v : LinkBlock × Intake × PerSide Tracker × Quad (List Int) => v.2.1.applied.laneEnable.get l) (flushIntakes_eqView d s n)

theorem flushIntakes_eqSets : (flushIntakes d n s).eqSets = s.eqSets :=
  congrArg (fun v : LinkBlock × Intake × PerSide Tracker × Quad (List Int) => v.2.2.2) (flushIntakes_eqView d s n)

theorem flushIntakes_eqLanes (m : Lane) : (flushIntakes d n s).eqLanes.get m =
    if inUse s m = true ∧ sideOf m = d then (shiftLane 0 none)^[n] (s.eqLanes.get m) else s.eqLanes.get m := by
  induction n with
  | zero => exact (ite_self _).symm
  | succ n ih =>
    rw [flushIntakes_succ, flushStep_eqLanes, flushIntakes_inUse, ih, Function.iterate_succ_apply']
    split <;> rfl

theorem flushIntakes_eqSides (e : Side) : (flushIntakes d n s).eqSides.get e =
    if e = d then emptyTaken^[n] (s.eqSides.get d) else s.eqSides.get e := by
  induction n generalizing e with
  | zero =>
    split
    · next h => rw [h]; rfl
    · rfl
  | succ n ih =>
    rw [flushIntakes_succ, flushStep_eqSides, ih d, ih e, if_pos rfl, Function.iterate_succ_apply']
    split <;> rfl

end

/-! ### The delays after some zeros (R128) -/

/-- The delays of a lane after `n + 1` zeros. -/
theorem shiftLane_iterate (n : Nat) (q : EqLane) : (shiftLane 0 none)^[n + 1] q =
    ⟨(List.replicate (n + 1) 0 ++ q.line).take 63, (List.replicate (n + 1) none ++ q.records).take 63⟩ := by
  induction n with
  | zero => rfl
  | succ n ih =>
    rw [Function.iterate_succ_apply', ih, shiftLane]
    simp only [List.replicate_succ (n := n + 1), List.cons_append, List.take_succ_cons, List.take_take]
    rfl

theorem emptyTaken_iterate (n : Nat) (q : EqSide) : emptyTaken^[n + 1] q =
    ⟨(List.replicate (n + 1) none ++ q.frames).take 31, max q.fill (min (q.fill + n + 1) 31), q.flushing⟩ := by
  induction n with
  | zero =>
    show emptyTaken q = _
    unfold emptyTaken
    congr 1
    split <;> omega
  | succ n ih =>
    rw [Function.iterate_succ_apply', ih, emptyTaken]
    congr 1
    · simp only [List.replicate_succ (n := n + 1), List.cons_append, List.take_succ_cons, List.take_take]
      rfl
    · dsimp only
      split <;> omega

/-- The record leaving after `n` empty intakes: none while the fill count is below 31, then those taken in, oldest first. -/
theorem leaving_iterate {n : Nat} (hn : n ≤ 30) (q : EqSide) : leaving (emptyTaken^[n] q) =
    if q.fill + n < 31 then none else (q.frames[30 - n]?).join := by
  cases n with
  | zero => rfl
  | succ n =>
    rw [emptyTaken_iterate, leaving]
    dsimp only
    rw [List.getElem?_take_of_lt (by omega), List.getElem?_append_right (by rw [List.length_replicate]; omega),
      List.length_replicate]
    split <;> split <;> first | rfl | omega

theorem centreRecord_iterate {n : Nat} (hn : n ≤ 30) (q : EqLane) :
    centreRecord ((shiftLane 0 none)^[n + 1] q) = (q.records[30 - n]?).join := by
  rw [shiftLane_iterate, centreRecord]
  dsimp only
  rw [List.getElem?_take_of_lt (by omega), List.getElem?_append_right (by rw [List.length_replicate]; omega),
    List.length_replicate]
  congr 2
  omega

end Sys2Proof.Machine
end

section
/-! A flushed end of a side (R31, R136 to R140): which frames leave its equalizer, and the CLEAN parcels they fill. -/

namespace Sys2Proof.Machine

/-! ### The frames put out (R136) -/

/-- The frame leaving at the `k + 1`-th empty intake of a flush that begins in a state. -/
def leavingAt (d : Side) (s : State) (k : Nat) : Option CleanFrame := leavingFrame d (flushIntakes d k s)

theorem flushIntakes_cleanOut (d e : Side) (n : Nat) (s : State) : cleanOut e (flushIntakes d n s) =
    if e = d then ((List.range n).filterMap (leavingAt d s)).foldl (CleanOut.join s.link.link.d (parcelOfFrames d s)) (cleanOut d s)
    else cleanOut e s := by
  induction n with
  | zero =>
    split
    · next h => rw [h]; rfl
    · rfl
  | succ n ih =>
    have hview := flushIntakes_eqView d s n
    rw [flushIntakes_succ, flushStep_cleanOut]
    by_cases he : e = d
    · subst he
      rw [if_pos rfl] at ih
      rw [if_pos rfl, if_pos rfl, ih, List.range_succ, List.filterMap_append, List.foldl_append, parcelOfFrames_of_view hview,
        show (flushIntakes e n s).link = s.link from congrArg Prod.fst hview]
      congr 1
    · rw [if_neg he] at ih
      rw [if_neg he, if_neg he, ih]

/-- The sample of a lane after `j` more of `n` frames have left. -/
theorem slotOf_flushed {s : State} {d : Side} {k : Nat} (hk : k ≤ 30) {n j : Nat} (hj : 30 - k = n - 1 - j) (hn : k + 1 = 32 - n + j)
    {l : Lane} (hl : sideOf l = d) :
    slotOf (inUse s l) s.eqSets true ((flushIntakes d (k + 1) s).eqLanes.get l) = flushedSample s n j l := by
  have huse : inUse s l = s.intake.applied.laneEnable.get l := rfl
  rw [flushIntakes_eqLanes]
  unfold slotOf flushedSample
  cases h : s.intake.applied.laneEnable.get l with
  | false =>
    rw [huse, h]
    rfl
  | true =>
    rw [huse, h]
    simp only [hl, and_self, if_true]
    rw [centreRecord_iterate hk, hj, shiftLane_iterate, hn]
    rfl

theorem leavingAt_eq {s : State} {d : Side} (htail : (s.eqSides.get d).flushing = true) {k : Nat} (hk : k ≤ 30) :
    leavingAt d s k = if (s.eqSides.get d).fill + k < 31 then none
      else (((s.eqSides.get d).frames[30 - k]?).join).map fun r =>
        ⟨slotOf (inUse s (firstLane d)) s.eqSets true ((flushIntakes d (k + 1) s).eqLanes.get (firstLane d)),
          slotOf (inUse s (secondLane d)) s.eqSets true ((flushIntakes d (k + 1) s).eqLanes.get (secondLane d)), r⟩ := by
  have hside : (flushIntakes d k s).eqSides.get d = emptyTaken^[k] (s.eqSides.get d) := by
    rw [flushIntakes_eqSides, if_pos rfl]
  have hflushing : (emptyTaken^[k] (s.eqSides.get d)).flushing = true := by
    cases k with
    | zero => exact htail
    | succ k =>
      rw [emptyTaken_iterate]
      exact htail
  unfold leavingAt leavingFrame
  rw [hside, leaving_iterate hk, hflushing, flushIntakes_inUse, flushIntakes_inUse, flushIntakes_eqSets, ← flushIntakes_succ]
  split <;> rfl

/-- The frames that leave in 31 empty intakes are those inside the equalizer, oldest first (R136). -/
theorem leavingAt_flushed {s : State} {d : Side} (htail : (s.eqSides.get d).flushing = true) :
    (List.range 31).filterMap (leavingAt d s) = flushedFrames d s := by
  have hinside : framesInside d s = min (s.eqSides.get d).fill 31 := rfl
  have hrange : List.range 31 = List.range (31 - framesInside d s) ++
      (List.range (framesInside d s)).map fun j => (31 - framesInside d s) + j := by
    rw [← List.range_add]
    congr 1
    omega
  have hnone : (List.range (31 - framesInside d s)).filterMap (leavingAt d s) = [] := by
    refine List.filterMap_eq_nil_iff.mpr fun k hk => ?_
    rw [List.mem_range] at hk
    rw [leavingAt_eq htail (by omega), if_pos (by omega)]
  rw [hrange, List.filterMap_append, hnone, List.nil_append, List.filterMap_map, flushedFrames]
  refine List.filterMap_congr fun j hj => ?_
  rw [List.mem_range] at hj
  have hk : 31 - framesInside d s + j ≤ 30 := by omega
  have hindex : 30 - (31 - framesInside d s + j) = framesInside d s - 1 - j := by omega
  show leavingAt d s (31 - framesInside d s + j) = _
  rw [leavingAt_eq htail hk, if_neg (by omega), hindex,
    slotOf_flushed hk hindex (by omega) (sideOf_firstLane d), slotOf_flushed hk hindex (by omega) (sideOf_secondLane d)]

/-! ### CLEAN parcels by sixteens (R138, R139) -/

/-- The frames of each parcel that a list of frames fills. -/
def sixteens (fs : List CleanFrame) : List (List CleanFrame) :=
  (List.range ((fs.length + 15) / 16)).map fun k => (fs.drop (16 * k)).take 16

theorem sixteens_of_short {fs : List CleanFrame} (hne : fs ≠ []) (h : fs.length ≤ 16) : sixteens fs = [fs] := by
  have hpos : 0 < fs.length := List.length_pos_iff.mpr hne
  rw [sixteens, show (fs.length + 15) / 16 = 1 by omega]
  simp [List.take_of_length_le h]

theorem sixteens_append {fs gs : List CleanFrame} (h : fs.length = 16) : sixteens (fs ++ gs) = fs :: sixteens gs := by
  have hcount : ((fs ++ gs).length + 15) / 16 = (gs.length + 15) / 16 + 1 := by
    rw [List.length_append]
    omega
  rw [sixteens, hcount, List.range_succ_eq_map, List.map_cons, List.map_map, sixteens]
  congr 1
  · rw [Nat.mul_zero, List.drop_zero, List.take_left' h]
  · refine List.map_congr_left fun k _ => ?_
    show ((fs ++ gs).drop (16 * (k + 1))).take 16 = _
    rw [Nat.mul_add, Nat.mul_one, Nat.add_comm, ← List.drop_drop, List.drop_left' h]

/-- Frames that join one after another, and the partial parcel completed after them, are the sixteens of the frames
completed one after another. -/
theorem join_complete (port : LinkState) (mk : List CleanFrame → CleanParcel) (fs : List CleanFrame) (o : CleanOut)
    (h : o.frames.length ≤ 15) : (fs.foldl (CleanOut.join port mk) o).complete port mk =
      ((sixteens (o.frames ++ fs)).map mk).foldl (CleanOut.push port) { o with frames := [] } := by
  induction fs generalizing o with
  | nil =>
    rw [List.append_nil, List.foldl_nil, CleanOut.complete]
    by_cases hnone : o.frames = []
    · rw [if_pos hnone, hnone]
      obtain ⟨frames, queue, lost⟩ := o
      cases hnone
      rfl
    · rw [if_neg hnone, sixteens_of_short hnone (by omega)]
      rfl
  | cons f fs ih =>
    rw [List.foldl_cons]
    by_cases hfull : 16 ≤ (o.frames ++ [f]).length
    · have hlen : (o.frames ++ [f]).length = 16 := by
        rw [List.length_append, List.length_singleton] at hfull ⊢
        omega
      have hjoin : o.join port mk f = ({ o with frames := [] } : CleanOut).push port (mk (o.frames ++ [f])) :=
        (if_pos hfull).trans (if_neg (by simp))
      have hpushed : (({ o with frames := [] } : CleanOut).push port (mk (o.frames ++ [f]))).frames = [] := by
        unfold CleanOut.push
        split <;> rfl
      rw [hjoin, ih _ (by rw [hpushed]; exact Nat.zero_le _), hpushed, List.nil_append,
        show o.frames ++ f :: fs = (o.frames ++ [f]) ++ fs by simp, sixteens_append hlen, List.map_cons, List.foldl_cons]
      congr 1
      generalize CleanOut.push port { o with frames := [] } (mk (o.frames ++ [f])) = x at hpushed
      obtain ⟨frames, queue, lost⟩ := x
      cases hpushed
      rfl
    · have hjoin : o.join port mk f = { o with frames := o.frames ++ [f] } := if_neg hfull
      rw [hjoin, ih _ (by show (o.frames ++ [f]).length ≤ 15; omega)]
      simp

/-! ### Parcels offered to a clean queue (R140) -/

theorem countUp_countUp (c : BitVec 32) (a b : Nat) : countUp (countUp c a) b = countUp c (a + b) := by
  refine BitVec.eq_of_toNat_eq ?_
  rw [countUp_toNat, countUp_toNat, countUp_toNat]
  omega

theorem countUp_zero (c : BitVec 32) : countUp c 0 = c := by
  refine BitVec.eq_of_toNat_eq ?_
  have := c.isLt
  rw [countUp_toNat]
  omega

theorem push_foldl_of_up (ps : List CleanParcel) (o : CleanOut) (h : o.queue.length ≤ 4) :
    ps.foldl (CleanOut.push .up) o =
      { o with queue := (o.queue ++ ps).take 4, lost := countUp o.lost (o.queue.length + ps.length - 4) } := by
  induction ps generalizing o with
  | nil =>
    rw [List.foldl_nil, List.append_nil, List.take_of_length_le h, List.length_nil, Nat.add_zero,
      Nat.sub_eq_zero_of_le h, countUp_zero]
  | cons p ps ih =>
    rw [List.foldl_cons]
    by_cases hroom : o.queue.length < 4
    · have hpush : o.push .up p = { o with queue := o.queue ++ [p] } := if_pos ⟨rfl, hroom⟩
      rw [hpush, ih _ (by simp; omega)]
      simp only [List.append_assoc, List.singleton_append, List.length_append, List.length_cons, List.length_nil]
      congr 2
      omega
    · have hfull : o.queue.length = 4 := by omega
      have hpush : o.push .up p = { o with lost := countUp o.lost 1 } := if_neg fun hno => hroom hno.2
      rw [hpush, ih _ (by exact h), countUp_countUp, List.take_append_of_le_length (by exact hfull.ge),
        List.take_append_of_le_length hfull.ge]
      dsimp only
      rw [List.length_cons, hfull]
      congr 2
      omega

theorem push_foldl_of_down (ps : List CleanParcel) (o : CleanOut) :
    ps.foldl (CleanOut.push .down) o = { o with lost := countUp o.lost ps.length } := by
  induction ps generalizing o with
  | nil => rw [List.foldl_nil, List.length_nil, countUp_zero]
  | cons p ps ih =>
    have hpush : o.push .down p = { o with lost := countUp o.lost 1 } := if_neg fun h => by cases h.1
    rw [List.foldl_cons, hpush, ih, countUp_countUp, List.length_cons, Nat.add_comm]

theorem push_queue_prefix (port : LinkState) (o : CleanOut) (p : CleanParcel) : o.queue <+: (o.push port p).queue := by
  unfold CleanOut.push
  split
  · exact List.prefix_append _ _
  · exact List.prefix_rfl

theorem complete_queue_prefix (port : LinkState) (mk : List CleanFrame → CleanParcel) (o : CleanOut) :
    o.queue <+: (o.complete port mk).queue := by
  unfold CleanOut.complete
  split
  · exact List.prefix_rfl
  · exact push_queue_prefix port { o with frames := [] } _

theorem join_queue_prefix (port : LinkState) (mk : List CleanFrame → CleanParcel) (fs : List CleanFrame) (o : CleanOut) :
    o.queue <+: (fs.foldl (CleanOut.join port mk) o).queue := by
  induction fs generalizing o with
  | nil => exact List.prefix_rfl
  | cons f fs ih =>
    refine List.IsPrefix.trans ?_ (ih _)
    unfold CleanOut.join
    split
    · exact complete_queue_prefix port mk { o with frames := o.frames ++ [f] }
    · exact List.prefix_rfl

/-! ### One side flushed (R136, R139) -/

/-- The state a tail flush begins in. -/
theorem setFlushing_cleanOut (d e : Side) (b : Bool) (s : State) : cleanOut e (setFlushing d b s) = cleanOut e s := rfl

theorem flushing_setFlushing (d : Side) (s : State) : ((setFlushing d true s).eqSides.get d).flushing = true := by
  rw [setFlushing, PerSide.get_modify, if_pos rfl]

theorem flushedFrames_setFlushing (d : Side) (b : Bool) (s : State) : flushedFrames d (setFlushing d b s) = flushedFrames d s := by
  have hside : (setFlushing d b s).eqSides.get d = { s.eqSides.get d with flushing := b } := by
    rw [setFlushing, PerSide.get_modify, if_pos rfl]
  unfold flushedFrames framesInside
  rw [hside]
  rfl

/-- The flush of a side at work: its frames and then what its partial parcel still holds. -/
theorem flushSide_cleanOut (d e : Side) (s : State) (h : sideActive s d = true) : cleanOut e (flushSide s d) =
    if e = d then ((flushedFrames d s).foldl (CleanOut.join s.link.link.d (parcelOfFrames d s)) (cleanOut d s)).complete
      s.link.link.d (parcelOfFrames d s)
    else cleanOut e s := by
  have hview : (tailFlush d s).eqView = s.eqView := tailFlush_keeps eqKeeps_eqView d s
  have htail (c : Side) : cleanOut c (tailFlush d s) =
      if c = d then (flushedFrames d s).foldl (CleanOut.join s.link.link.d (parcelOfFrames d s)) (cleanOut d s) else cleanOut c s := by
    unfold tailFlush
    rw [setFlushing_cleanOut, flushIntakes_cleanOut, leavingAt_flushed (flushing_setFlushing d s), flushedFrames_setFlushing]
    rfl
  rw [flushSide, if_pos h, cleanOut_completePartial, htail, htail, if_pos rfl, parcelOfFrames_of_view hview,
    show (tailFlush d s).link = s.link from congrArg Prod.fst hview]
  split <;> rfl

end Sys2Proof.Machine
end

section
/-! The pass ends (R31, R33, R91, R120, R140): the runs they cut, what a flushed end leaves side by side, and what both
leave. -/

namespace Sys2Proof.Machine

/-! ### The runs a pass end cuts (R91) -/

/-- The record of a lane's open run, cut at the intake position. -/
def cutOf (s : State) (l : Lane) : Option DamageRecord :=
  if (s.detectors.get l).state = .dropout ∨ (s.detectors.get l).state = .recovering then
    some ⟨l, (s.detectors.get l).start, s.intake.position, (s.detectors.get l).lowest, (s.detectors.get l).gap, true,
      s.intake.passNumber⟩
  else none

/-- A detector's end is its detector clear, and its run closed if one is open. -/
theorem endDetector_eq (s : State) (l : Lane) : endDetector s l =
    match cutOf s l with
    | some r => appendDamage r { s with
        detectors := s.detectors.set l { s.detectors.get l with state := .clear, count := 0 }
        counters := { s.counters with dropoutsClosed := s.counters.dropoutsClosed.modify l (countUp · 1) } }
    | none => { s with detectors := s.detectors.set l { s.detectors.get l with state := .clear, count := 0 } } := by
  unfold endDetector cutOf
  dsimp only
  generalize s.detectors.get l = q
  obtain ⟨state, -, -, -, -⟩ := q
  cases state <;> rfl

theorem endDetector_detectors (s : State) (l m : Lane) : (endDetector s l).detectors.get m =
    if m = l then { s.detectors.get l with state := .clear, count := 0 } else s.detectors.get m := by
  have hd : (endDetector s l).detectors = s.detectors.set l { s.detectors.get l with state := .clear, count := 0 } := by
    rw [endDetector_eq]
    split
    · exact appendDamage_detectors _ _
    · rfl
  rw [hd, Quad.get_set]

theorem endDetector_intake (s : State) (l : Lane) : (endDetector s l).intake = s.intake :=
  endDetector_keeps State.intake (fun _ _ => rfl) (fun _ _ => rfl) appendDamage_intake s l

theorem cutOf_endDetector (s : State) {l m : Lane} (h : m ≠ l) : cutOf (endDetector s l) m = cutOf s m := by
  unfold cutOf
  rw [endDetector_detectors, if_neg h, endDetector_intake]

/-- What records do to the log (R143). -/
def logged (log : List DamageRecord) (rs : List DamageRecord) : List DamageRecord := (log ++ rs).take 64

theorem appendDamage_log (r : DamageRecord) (s : State) (h : s.log.length ≤ 64) :
    (appendDamage r s).log = (s.log ++ [r]).take 64 ∧
    (appendDamage r s).counters.unloggedDropouts = countUp s.counters.unloggedDropouts (s.log.length + 1 - 64) ∧
    (appendDamage r s).counters.dropoutsClosed = s.counters.dropoutsClosed := by
  obtain ⟨hfull, heq⟩ | ⟨hhigh, heq⟩ | ⟨hlow, -, heq⟩ := appendDamage_cases r s
  · rw [heq]
    refine ⟨?_, ?_, rfl⟩
    · rw [List.take_append_of_le_length hfull, List.take_of_length_le h]
      rfl
    · rw [show s.log.length + 1 - 64 = 1 by omega]
      rfl
  · rw [heq]
    refine ⟨?_, ?_, rfl⟩
    · rw [List.take_of_length_le (by simp; omega)]
      rfl
    · rw [show s.log.length + 1 - 64 = 0 by omega, countUp_zero]
      rfl
  · rw [heq]
    refine ⟨?_, ?_, rfl⟩
    · rw [List.take_of_length_le (by simp; omega)]
    · rw [show s.log.length + 1 - 64 = 0 by omega, countUp_zero]

/-- One detector's end at the log. -/
theorem endDetector_log (s : State) (l : Lane) (h : s.log.length ≤ 64) :
    (endDetector s l).log = (s.log ++ (cutOf s l).toList).take 64 ∧
    (endDetector s l).counters.unloggedDropouts =
      countUp s.counters.unloggedDropouts (s.log.length + (cutOf s l).toList.length - 64) ∧
    ∀ m, (endDetector s l).counters.dropoutsClosed.get m =
      if m = l ∧ (cutOf s l).isSome = true then countUp (s.counters.dropoutsClosed.get m) 1 else s.counters.dropoutsClosed.get m := by
  rw [endDetector_eq]
  cases cutOf s l with
  | none =>
    refine ⟨?_, ?_, fun m => ?_⟩
    · rw [Option.toList_none, List.append_nil, List.take_of_length_le h]
    · rw [Option.toList_none, List.length_nil, Nat.add_zero, Nat.sub_eq_zero_of_le h, countUp_zero]
    · simp
  | some r =>
    obtain ⟨hlog, hunlogged, hclosed⟩ := appendDamage_log r { s with
      detectors := s.detectors.set l { s.detectors.get l with state := .clear, count := 0 }
      counters := { s.counters with dropoutsClosed := s.counters.dropoutsClosed.modify l (countUp · 1) } } h
    refine ⟨hlog, hunlogged, fun m => ?_⟩
    rw [hclosed, Quad.get_modify]
    by_cases hm : m = l
    · subst hm
      simp
    · simp [hm]

/-- The detectors of some lanes ended one after another. -/
theorem endLanes_log (ls : List Lane) (hnodup : ls.Nodup) (s : State) (h : s.log.length ≤ 64) :
    (ls.foldl endDetector s).log = (s.log ++ ls.filterMap (cutOf s)).take 64 ∧
    (ls.foldl endDetector s).counters.unloggedDropouts =
      countUp s.counters.unloggedDropouts (s.log.length + (ls.filterMap (cutOf s)).length - 64) ∧
    ∀ m, (ls.foldl endDetector s).counters.dropoutsClosed.get m =
      if m ∈ ls ∧ (cutOf s m).isSome = true then countUp (s.counters.dropoutsClosed.get m) 1
      else s.counters.dropoutsClosed.get m := by
  induction ls generalizing s with
  | nil =>
    refine ⟨?_, ?_, fun m => ?_⟩
    · rw [List.filterMap_nil, List.append_nil, List.take_of_length_le h]
      rfl
    · rw [List.filterMap_nil, List.length_nil, Nat.add_zero, Nat.sub_eq_zero_of_le h, countUp_zero]
      rfl
    · simp
  | cons l ls ih =>
    obtain ⟨hl, hls⟩ := List.nodup_cons.mp hnodup
    obtain ⟨hlog, hunlogged, hclosed⟩ := endDetector_log s l h
    have hroom : (endDetector s l).log.length ≤ 64 := by
      rw [hlog, List.length_take]
      exact Nat.min_le_left _ _
    have hrest : ls.filterMap (cutOf (endDetector s l)) = ls.filterMap (cutOf s) :=
      List.filterMap_congr fun m hm => cutOf_endDetector s fun e => hl (e ▸ hm)
    have hcons : (l :: ls).filterMap (cutOf s) = (cutOf s l).toList ++ ls.filterMap (cutOf s) := by
      rw [List.filterMap_cons]
      cases cutOf s l <;> rfl
    obtain ⟨hlog', hunlogged', hclosed'⟩ := ih hls (endDetector s l) hroom
    rw [List.foldl_cons, hcons]
    refine ⟨?_, ?_, fun m => ?_⟩
    · rw [hlog', hrest, hlog, ← List.append_assoc]
      generalize s.log ++ (cutOf s l).toList = xs
      rw [List.take_append, List.take_take, Nat.min_self, List.length_take, List.take_append]
      congr 2
      omega
    · rw [hunlogged', hunlogged, hrest, countUp_countUp, hlog, List.length_take, List.length_append, List.length_append]
      congr 1
      omega
    · rw [hclosed', hclosed]
      by_cases hm : m = l
      · subst hm
        simp [hl]
      · rw [cutOf_endDetector s hm]
        simp [hm]

theorem nodup_lanesInUse (s : State) : (lanesInUse s).Nodup := List.Nodup.filter _ (by decide)

theorem mem_lanesInUse (s : State) (l : Lane) : l ∈ lanesInUse s ↔ s.intake.applied.laneEnable.get l = true := by
  have hall : l ∈ allLanes := by fin_cases l <;> decide
  simp [lanesInUse, inUse, hall]

/-- The records cut are those of the lanes in use, in lane order. -/
theorem filterMap_cutOf (s : State) : (lanesInUse s).filterMap (cutOf s) = cutRecords s := by
  unfold lanesInUse cutRecords cutOf
  rw [List.filterMap_filter]
  refine List.filterMap_congr fun l _ => ?_
  dsimp only
  by_cases hu : inUse s l = true
  · rw [if_pos hu]
    have hu' : s.intake.applied.laneEnable.get l = true := hu
    simp only [hu', true_and]
  · rw [if_neg hu]
    have hu' : ¬ s.intake.applied.laneEnable.get l = true := hu
    simp only [hu', false_and, if_false, Bool.false_eq_true]

theorem cutOf_lane {s : State} {l : Lane} {r : DamageRecord} (h : cutOf s l = some r) : r.lane = l := by
  unfold cutOf at h
  split at h
  · cases h; rfl
  · cases h

/-- A lane's run is cut when a record of the lane is. -/
theorem exists_cut_iff (s : State) (l : Lane) :
    (l ∈ lanesInUse s ∧ (cutOf s l).isSome = true) ↔ ∃ r ∈ cutRecords s, r.lane = l := by
  rw [← filterMap_cutOf]
  constructor
  · rintro ⟨hl, hsome⟩
    obtain ⟨r, hr⟩ := Option.isSome_iff_exists.mp hsome
    exact ⟨r, List.mem_filterMap.mpr ⟨l, hl, hr⟩, cutOf_lane hr⟩
  · rintro ⟨r, hr, rfl⟩
    obtain ⟨m, hm, hcut⟩ := List.mem_filterMap.mp hr
    have := cutOf_lane hcut
    subst this
    exact ⟨hm, Option.isSome_iff_exists.mpr ⟨r, hcut⟩⟩

/-- The log and its counters after the detectors of a pass end. -/
theorem endDetectors_log (s : State) (h : s.log.length ≤ 64) :
    (endDetectors s).log = (s.log ++ cutRecords s).take 64 ∧
    (endDetectors s).counters.unloggedDropouts =
      countUp s.counters.unloggedDropouts (s.log.length + (cutRecords s).length - 64) ∧
    ∀ l, (endDetectors s).counters.dropoutsClosed.get l =
      if ∃ r ∈ cutRecords s, r.lane = l then countUp (s.counters.dropoutsClosed.get l) 1
      else s.counters.dropoutsClosed.get l := by
  obtain ⟨hlog, hunlogged, hclosed⟩ := endLanes_log (lanesInUse s) (nodup_lanesInUse s) s h
  rw [filterMap_cutOf] at hlog hunlogged
  simp only [exists_cut_iff] at hclosed
  exact ⟨hlog, hunlogged, hclosed⟩

/-- The detectors of the lanes in use are clear, and the others stay. -/
theorem endDetectors_detectors (s : State) (l : Lane) : (endDetectors s).detectors.get l =
    if s.intake.applied.laneEnable.get l = true then { s.detectors.get l with state := .clear, count := 0 }
    else s.detectors.get l := by
  suffices hlanes : ∀ (ls : List Lane) (u : State), (ls.foldl endDetector u).detectors.get l =
      if l ∈ ls then { u.detectors.get l with state := .clear, count := 0 } else u.detectors.get l by
    rw [endDetectors, hlanes]
    simp only [mem_lanesInUse]
  intro ls
  induction ls with
  | nil => exact fun u => (if_neg List.not_mem_nil).symm
  | cons m ls ih =>
    intro u
    rw [List.foldl_cons, ih, endDetector_detectors]
    by_cases hm : l = m
    · subst hm
      rw [if_pos rfl, if_pos List.mem_cons_self, ite_self]
    · simp only [List.mem_cons, hm, false_or, if_false]

theorem endDetectors_cleanOut (d : Side) (s : State) : cleanOut d (endDetectors s) = cleanOut d s := by
  refine foldl_keeps (cleanOut d) _ (fun u l => ?_) _ s
  rw [endDetector_eq]
  split
  · unfold appendDamage
    dsimp only
    split
    · rfl
    · split <;> rfl
  · rfl

end Sys2Proof.Machine
end

section
/-! What the two pass ends leave (R31, R33), side by side and field by field. -/

namespace Sys2Proof.Machine

/-! ### What neither end's detectors and audio touch -/

/-- The state without what a pass end's detectors and audio change: the detectors, the equalizers, the assemblers, the clean
queues, the log, the events, the counters and the lines. -/
def State.besideEnd (s : State) : State :=
  { s with
    detectors := State.reset.detectors, eqLanes := State.reset.eqLanes, eqSides := State.reset.eqSides
    partials := State.reset.partials, cleanQueues := State.reset.cleanQueues, log := [], flags := 0, notices := []
    counters := State.reset.counters, lines := State.reset.lines }

theorem eqKeeps_besideEnd : EqKeeps State.besideEnd :=
  ⟨fun _ _ => rfl, fun _ _ => rfl, fun _ _ => rfl, fun _ _ => rfl, fun _ _ => rfl, fun _ _ => rfl⟩

theorem endDetectors_besideEnd (s : State) : (endDetectors s).besideEnd = s.besideEnd :=
  endDetectors_keeps _ (fun _ _ => rfl) (fun _ _ => rfl)
    (fun r s => appendDamage_keeps _ (fun _ _ => rfl) (fun _ _ => rfl) (fun _ _ _ => rfl) r s) s

theorem endDetectors_eqState (s : State) : (endDetectors s).eqLanes = s.eqLanes ∧ (endDetectors s).eqSides = s.eqSides :=
  ⟨congrArg (fun x => x.2.2.1) (endDetectors_audio s), congrArg (fun x => x.2.2.2.1) (endDetectors_audio s)⟩

/-- The log and the counters of the runs, which no audio touches. -/
def State.runsView (s : State) : List DamageRecord × BitVec 32 × Quad (BitVec 32) × Quad Detector :=
  (s.log, s.counters.unloggedDropouts, s.counters.dropoutsClosed, s.detectors)

theorem queueClean_runsView (d : Side) (p : CleanParcel) (s : State) : (queueClean d p s).runsView = s.runsView := by
  unfold queueClean
  split <;> rfl

theorem completePartial_runsView (d : Side) (s : State) : (completePartial d s).runsView = s.runsView := by
  unfold completePartial
  split
  · rfl
  · exact queueClean_runsView d _ _

theorem putOut_runsView (d : Side) (r : FrameRecord) (s : State) : (putOut d r s).runsView = s.runsView := by
  have hclip (l : Lane) (f : FlagSet) (t : State) : (countClip l f t).runsView = t.runsView := by
    unfold countClip
    split <;> rfl
  have hjoin (f : CleanFrame) (t : State) : (assemble d f t).runsView = t.runsView := by
    unfold assemble
    dsimp only
    split
    · exact completePartial_runsView d _
    · rfl
  unfold putOut
  rw [hjoin, hclip, hclip]

theorem flushStep_runsView (d : Side) (s : State) : (flushStep d s).runsView = s.runsView := by
  obtain ⟨u, hu, heq⟩ := eqIntake_eq d (flushInput s (firstLane d)) (flushInput s (secondLane d)) none s
  have hlane (l : Lane) (x : LaneIntake) (t : State) : (takeLane l x t).runsView = t.runsView := by cases x <;> rfl
  have hview : u.runsView = s.runsView := by
    rw [hu]
    exact (hlane _ _ _).trans (hlane _ _ _)
  rw [flushStep, heq]
  split
  · exact (putOut_runsView d _ u).trans hview
  · exact hview

theorem flushIntakes_runsView (d : Side) (n : Nat) (s : State) : (flushIntakes d n s).runsView = s.runsView := by
  induction n with
  | zero => rfl
  | succ n ih => rw [flushIntakes_succ, flushStep_runsView, ih]

theorem flushSide_runsView (s : State) (d : Side) : (flushSide s d).runsView = s.runsView := by
  unfold flushSide
  split
  · exact (completePartial_runsView d _).trans (flushIntakes_runsView d 31 (setFlushing d true s))
  · rfl

theorem discardSide_runsView (s : State) (d : Side) : (discardSide s d).runsView = s.runsView := by
  unfold discardSide
  split <;> rfl

/-! ### The equalizer of a side after its flush (R128, R136) -/

theorem completePartial_eqState (d : Side) (s : State) :
    (completePartial d s).eqSides = s.eqSides ∧ (completePartial d s).eqLanes = s.eqLanes := by
  unfold completePartial
  split
  · exact ⟨rfl, rfl⟩
  · unfold queueClean
    split <;> exact ⟨rfl, rfl⟩

theorem flushSide_eqSides (s : State) (d e : Side) (h : sideActive s d = true) : (flushSide s d).eqSides.get e =
    if e = d then ⟨List.replicate 31 none, max (s.eqSides.get d).fill 31, false⟩ else s.eqSides.get e := by
  have hset : (setFlushing d true s).eqSides.get d = { s.eqSides.get d with flushing := true } := by
    rw [setFlushing, PerSide.get_modify, if_pos rfl]
  rw [flushSide, if_pos h, (completePartial_eqState d _).1, tailFlush]
  by_cases he : e = d
  · subst he
    rw [if_pos rfl, setFlushing, PerSide.get_modify, if_pos rfl, flushIntakes_eqSides, if_pos rfl, hset, emptyTaken_iterate,
      List.take_left' (by rfl)]
    congr 1
    dsimp only
    omega
  · rw [if_neg he, setFlushing, PerSide.get_modify, if_neg he, flushIntakes_eqSides, if_neg he, setFlushing, PerSide.get_modify,
      if_neg he]

theorem flushSide_eqLanes (s : State) (d : Side) (l : Lane) (h : sideActive s d = true) : (flushSide s d).eqLanes.get l =
    if inUse s l = true ∧ sideOf l = d then
      ⟨(List.replicate 31 0 ++ (s.eqLanes.get l).line).take 63, (List.replicate 31 none ++ (s.eqLanes.get l).records).take 63⟩
    else s.eqLanes.get l := by
  rw [flushSide, if_pos h, (completePartial_eqState d _).2]
  show (flushIntakes d 31 (setFlushing d true s)).eqLanes.get l = _
  rw [flushIntakes_eqLanes, shiftLane_iterate]
  rfl

/-! ### Both sides flushed (R31) -/

/-- Both sides flushed, one after the other. -/
def flushBoth (s : State) : State := [Side.A, Side.B].foldl flushSide s

/-- What a side's flush reads: its own audio and the view of the equalizer. -/
structure SideAgrees (d : Side) (s t : State) : Prop where
  out : cleanOut d t = cleanOut d s
  side : t.eqSides.get d = s.eqSides.get d
  lanes : ∀ l, sideOf l = d → t.eqLanes.get l = s.eqLanes.get l
  view : t.eqView = s.eqView

theorem SideAgrees.active {d : Side} {s t : State} (h : SideAgrees d s t) (e : Side) : sideActive t e = sideActive s e := by
  have htrackers : t.trackers = s.trackers := congrArg (fun v : LinkBlock × Intake × PerSide Tracker × Quad (List Int) => v.2.2.1) h.view
  rw [sideActive, sideActive, htrackers]

theorem SideAgrees.flushedFrames {d : Side} {s t : State} (h : SideAgrees d s t) : flushedFrames d t = flushedFrames d s := by
  have hview := h.view
  simp only [State.eqView, Prod.mk.injEq] at hview
  obtain ⟨-, hintake, -, hsets⟩ := hview
  have hsample (n j : Nat) (l : Lane) (hl : sideOf l = d) : flushedSample t n j l = flushedSample s n j l := by
    unfold flushedSample
    rw [h.lanes l hl, hintake, hsets]
  unfold Machine.flushedFrames framesInside
  rw [h.side]
  refine List.filterMap_congr fun j _ => ?_
  rw [hsample _ _ _ (sideOf_firstLane d), hsample _ _ _ (sideOf_secondLane d)]

theorem SideAgrees.inUse {d : Side} {s t : State} (h : SideAgrees d s t) (l : Lane) : inUse t l = inUse s l :=
  congrArg (fun v : LinkBlock × Intake × PerSide Tracker × Quad (List Int) => v.2.1.applied.laneEnable.get l) h.view

/-- A flush of one side leaves the other. -/
theorem flushSide_agrees {d e : Side} (h : d ≠ e) (s : State) : SideAgrees d s (flushSide s e) := by
  by_cases hactive : sideActive s e = true
  · exact ⟨by rw [flushSide_cleanOut e d s hactive, if_neg h], by rw [flushSide_eqSides s e d hactive, if_neg h],
      fun l hl => by rw [flushSide_eqLanes s e l hactive, if_neg fun hno => h (hl.symm.trans hno.2)],
      flushSide_keeps eqKeeps_eqView s e⟩
  · rw [flushSide, if_neg hactive]
    exact ⟨rfl, rfl, fun _ _ => rfl, rfl⟩

/-- A side's part of the flush of both is its own flush, in a state that agrees on it. -/
theorem flushBoth_agrees (d : Side) (s : State) : ∃ u, SideAgrees d s u ∧ SideAgrees d (flushSide u d) (flushBoth s) := by
  cases d with
  | A => exact ⟨s, ⟨rfl, rfl, fun _ _ => rfl, rfl⟩, flushSide_agrees (by decide) (flushSide s .A)⟩
  | B => exact ⟨flushSide s .A, flushSide_agrees (by decide) s, ⟨rfl, rfl, fun _ _ => rfl, rfl⟩⟩

/-- A side at work after the flush of both. -/
theorem flushBoth_of_active {d : Side} {s : State} (h : sideActive s d = true) :
    cleanOut d (flushBoth s) = ((flushedFrames d s).foldl (CleanOut.join s.link.link.d (parcelOfFrames d s)) (cleanOut d s)).complete
      s.link.link.d (parcelOfFrames d s) ∧
    (flushBoth s).eqSides.get d = ⟨List.replicate 31 none, max (s.eqSides.get d).fill 31, false⟩ ∧
    ∀ l, sideOf l = d → (flushBoth s).eqLanes.get l = if inUse s l = true then
        ⟨(List.replicate 31 0 ++ (s.eqLanes.get l).line).take 63, (List.replicate 31 none ++ (s.eqLanes.get l).records).take 63⟩
      else s.eqLanes.get l := by
  obtain ⟨u, hu, hboth⟩ := flushBoth_agrees d s
  have hactive : sideActive u d = true := (hu.active d).trans h
  refine ⟨?_, ?_, fun l hl => ?_⟩
  · rw [hboth.out, flushSide_cleanOut d d u hactive, if_pos rfl, hu.flushedFrames, parcelOfFrames_of_view hu.view, hu.out,
      show u.link = s.link from congrArg Prod.fst hu.view]
  · rw [hboth.side, flushSide_eqSides u d d hactive, if_pos rfl, hu.side]
  · rw [hboth.lanes l hl, flushSide_eqLanes u d l hactive, hu.lanes l hl, hu.inUse]
    simp only [hl, and_true]

/-- A side in IDLE is left by the flush of both. -/
theorem flushBoth_of_idle {d : Side} {s : State} (h : ¬ sideActive s d = true) : SideAgrees d s (flushBoth s) := by
  obtain ⟨u, hu, hboth⟩ := flushBoth_agrees d s
  have hidle : flushSide u d = u := if_neg (by rw [hu.active]; exact h)
  rw [hidle] at hboth
  exact ⟨hboth.out.trans hu.out, hboth.side.trans hu.side, fun l hl => (hboth.lanes l hl).trans (hu.lanes l hl),
    hboth.view.trans hu.view⟩

/-- The flush of both sides only adds to every clean queue (R140). -/
theorem flushBoth_queue_prefix (d : Side) (s : State) : (cleanOut d s).queue <+: (cleanOut d (flushBoth s)).queue := by
  by_cases h : sideActive s d = true
  · rw [(flushBoth_of_active h).1]
    exact (join_queue_prefix _ _ _ _).trans (complete_queue_prefix _ _ _)
  · rw [(flushBoth_of_idle h).out]

theorem flushBoth_besideEnd (s : State) : (flushBoth s).besideEnd = s.besideEnd :=
  foldl_keeps State.besideEnd _ (flushSide_keeps eqKeeps_besideEnd) _ s

theorem flushBoth_runsView (s : State) : (flushBoth s).runsView = s.runsView :=
  foldl_keeps State.runsView _ flushSide_runsView _ s

/-! ### The close of a pass (R48, R77, R120) -/

/-- What both ends do last, over the state that their detectors and audio left. -/
theorem closePass_eq (s : State) : closePass s = { s with
    trackers := ⟨endTracker s.trackers.a, endTracker s.trackers.b⟩
    map := { s.map with
      intakeWalker := stopWalker s.map.intakeWalker
      sideWalker := ⟨stopWalker s.map.sideWalker.a, stopWalker s.map.sideWalker.b⟩ }
    intake := { s.intake with running := false, expected := none }
    kernel := (tablesInstalled s).1
    eqSets := (tablesInstalled s).2
    stager := { s.stager with install := .none } } := by
  unfold closePass
  rw [installPending_eq]
  rfl

theorem endTracker_of_active {t : Tracker} (h : t.state ≠ .idle) :
    endTracker t = { t with state := .idle, appliedStep := 16777216, holdCount := 0, validRun := 0, force := .none } := if_neg h

theorem endTracker_of_idle {t : Tracker} (h : t.state = .idle) : endTracker t = t := if_pos h

theorem stopWalker_of_running {w : Walker} (h : w.running = true) :
    stopWalker w = { w with running := false, active := Quad.fill [] } := if_pos h

/-- The state a flushed end closes. -/
theorem flushed_besideEnd (s : State) : (flushBoth (endDetectors s)).besideEnd = s.besideEnd :=
  (flushBoth_besideEnd _).trans (endDetectors_besideEnd s)

end Sys2Proof.Machine
end

section
/-! A flushed end (R31) and a discarding end (R33), whole: a DECK parcel that leaves PLAY (R18). -/

namespace Sys2Proof.Machine

/-! ### The close of a pass over what its detectors and audio left -/

theorem eq_of_besideEnd {s u : State} (h : u.besideEnd = s.besideEnd) : u = { s with
    detectors := u.detectors, eqLanes := u.eqLanes, eqSides := u.eqSides, partials := u.partials
    cleanQueues := u.cleanQueues, log := u.log, flags := u.flags, notices := u.notices, counters := u.counters
    lines := u.lines } := by
  obtain ⟨⟩ := s
  obtain ⟨⟩ := u
  simp only [State.besideEnd, State.mk.injEq] at h
  simp only [h]

/-- A pass end whole: what the detectors and the audio leave, and the close of the pass over the rest. -/
theorem closePass_frame {s u : State} (h : u.besideEnd = s.besideEnd) : closePass u = { s with
    detectors := u.detectors, eqLanes := u.eqLanes, eqSides := u.eqSides, partials := u.partials
    cleanQueues := u.cleanQueues, log := u.log, flags := u.flags, notices := u.notices, counters := u.counters
    lines := u.lines
    trackers := ⟨endTracker s.trackers.a, endTracker s.trackers.b⟩
    map := { s.map with
      intakeWalker := stopWalker s.map.intakeWalker
      sideWalker := ⟨stopWalker s.map.sideWalker.a, stopWalker s.map.sideWalker.b⟩ }
    intake := { s.intake with running := false, expected := none }
    kernel := (tablesInstalled s).1
    eqSets := (tablesInstalled s).2
    stager := { s.stager with install := .none } } := by
  have htables : u.besideEnd.tablesView = s.besideEnd.tablesView := by rw [h]
  have hother : tablesInstalled u = tablesInstalled s := tablesInstalled_of_view htables
  rw [closePass_eq, hother, eq_of_besideEnd h]

theorem endTracker_get (x : PerSide Tracker) (d : Side) :
    (⟨endTracker x.a, endTracker x.b⟩ : PerSide Tracker).get d = endTracker (x.get d) := by
  cases d <;> rfl

theorem stopWalker_get (x : PerSide Walker) (d : Side) :
    (⟨stopWalker x.a, stopWalker x.b⟩ : PerSide Walker).get d = stopWalker (x.get d) := by
  cases d <;> rfl

theorem endDetectors_agrees (d : Side) (s : State) : SideAgrees d s (endDetectors s) where
  out := endDetectors_cleanOut d s
  side := by rw [(endDetectors_eqState s).2]
  lanes l _ := by rw [(endDetectors_eqState s).1]
  view := endDetectors_keeps _ (fun _ _ => rfl) (fun _ _ => rfl)
    (fun r s => appendDamage_keeps _ (fun _ _ => rfl) (fun _ _ => rfl) (fun _ _ _ => rfl) r s) s

/-! ### What a flushed end's detectors and audio leave (R31, R136 to R140) -/

/-- The state a flushed end closes. -/
def flushedAudio (s : State) : State := flushBoth (endDetectors s)

theorem flushedAudio_runsView (s : State) : (flushedAudio s).runsView = (endDetectors s).runsView :=
  flushBoth_runsView _

theorem flushedAudio_detectors (s : State) (l : Lane) : (flushedAudio s).detectors.get l =
    if s.intake.applied.laneEnable.get l = true then { s.detectors.get l with state := .clear, count := 0 }
    else s.detectors.get l := by
  rw [show (flushedAudio s).detectors = (endDetectors s).detectors from
    congrArg (fun v : List DamageRecord × BitVec 32 × Quad (BitVec 32) × Quad Detector => v.2.2.2) (flushedAudio_runsView s)]
  exact endDetectors_detectors s l

theorem flushedAudio_log (s : State) (h : s.log.length ≤ 64) :
    (flushedAudio s).log = (s.log ++ cutRecords s).take 64 ∧
    (flushedAudio s).counters.unloggedDropouts =
      countUp s.counters.unloggedDropouts (s.log.length + (cutRecords s).length - 64) ∧
    ∀ l, (flushedAudio s).counters.dropoutsClosed.get l =
      if ∃ r ∈ cutRecords s, r.lane = l then countUp (s.counters.dropoutsClosed.get l) 1
      else s.counters.dropoutsClosed.get l := by
  have hruns := flushedAudio_runsView s
  simp only [State.runsView, Prod.mk.injEq] at hruns
  obtain ⟨hlog, hunlogged, hclosed, -⟩ := hruns
  rw [hlog, hunlogged, hclosed]
  exact endDetectors_log s h

/-- A side in IDLE keeps its audio. -/
theorem flushedAudio_of_idle {d : Side} {s : State} (h : (s.trackers.get d).state = .idle) :
    SideAgrees d s (flushedAudio s) := by
  have hagrees := endDetectors_agrees d s
  have hidle : ¬ sideActive (endDetectors s) d = true := by
    rw [hagrees.active, sideActive_iff, not_not]
    exact h
  have hboth := flushBoth_of_idle hidle
  exact ⟨hboth.out.trans hagrees.out, hboth.side.trans hagrees.side, fun l hl => (hboth.lanes l hl).trans (hagrees.lanes l hl),
    hboth.view.trans hagrees.view⟩

section
variable {d : Side} {s : State} (h : (s.trackers.get d).state ≠ .idle)
include h

/-- The equalizer of a side at work has taken in 31 empty frames. -/
theorem flushedAudio_eq_of_active :
    (flushedAudio s).eqSides.get d = ⟨List.replicate 31 none, max (s.eqSides.get d).fill 31, false⟩ ∧
    ∀ l, sideOf l = d → (flushedAudio s).eqLanes.get l = if s.intake.applied.laneEnable.get l = true then
        ⟨(List.replicate 31 0 ++ (s.eqLanes.get l).line).take 63, (List.replicate 31 none ++ (s.eqLanes.get l).records).take 63⟩
      else s.eqLanes.get l := by
  have hagrees := endDetectors_agrees d s
  obtain ⟨-, hside, hlanes⟩ := flushBoth_of_active (d := d) ((hagrees.active d).trans ((sideActive_iff s d).mpr h))
  refine ⟨hside.trans (by rw [hagrees.side]), fun l hl => (hlanes l hl).trans ?_⟩
  rw [hagrees.inUse, hagrees.lanes l hl]
  rfl

/-- The parcels of a side at work join its clean queue or are counted. -/
theorem flushedAudio_cleanOut_of_active (hpart : (s.partials.get d).length < 16) : cleanOut d (flushedAudio s) =
    (flushedParcels d s).foldl (CleanOut.push s.link.link.d) { cleanOut d s with frames := [] } := by
  have hagrees := endDetectors_agrees d s
  obtain ⟨hout, -⟩ := flushBoth_of_active (d := d) ((hagrees.active d).trans ((sideActive_iff s d).mpr h))
  rw [flushedAudio, hout, hagrees.flushedFrames, parcelOfFrames_of_view hagrees.view, hagrees.out,
    show (endDetectors s).link = s.link from congrArg Prod.fst hagrees.view]
  exact (join_complete _ _ _ _ (Nat.le_of_lt_succ hpart)).trans (by rw [flushedParcels, sixteens, List.map_map]; rfl)

theorem flushedAudio_partial : (flushedAudio s).partials.get d = [] := by
  have hagrees := endDetectors_agrees d s
  obtain ⟨hout, -⟩ := flushBoth_of_active (d := d) ((hagrees.active d).trans ((sideActive_iff s d).mpr h))
  refine (congrArg CleanOut.frames hout).trans ?_
  unfold CleanOut.complete
  split
  · assumption
  · unfold CleanOut.push
    split <;> rfl

end

/-- A flushed end whole. -/
theorem flushedEnd_frame (s : State) : flushedEnd s = { s with
    detectors := (flushedAudio s).detectors, eqLanes := (flushedAudio s).eqLanes, eqSides := (flushedAudio s).eqSides
    partials := (flushedAudio s).partials, cleanQueues := (flushedAudio s).cleanQueues, log := (flushedAudio s).log
    flags := (flushedAudio s).flags, notices := (flushedAudio s).notices, counters := (flushedAudio s).counters
    lines := (flushedAudio s).lines
    trackers := ⟨endTracker s.trackers.a, endTracker s.trackers.b⟩
    map := { s.map with
      intakeWalker := stopWalker s.map.intakeWalker
      sideWalker := ⟨stopWalker s.map.sideWalker.a, stopWalker s.map.sideWalker.b⟩ }
    intake := { s.intake with running := false, expected := none }
    kernel := (tablesInstalled s).1
    eqSets := (tablesInstalled s).2
    stager := { s.stager with install := .none } } := closePass_frame (flushed_besideEnd s)

/-! ### A DECK parcel that leaves PLAY (R18) -/

theorem takeTransport_of_leaving {code : Nat} {x : Transport} {s : State} (hcode : transportOfCode code = some x)
    (hx : x ≠ .play) (hplay : s.intake.transport = .play) (hrun : s.intake.running = true) :
    takeTransport code s = { flushedEnd s with intake := { (flushedEnd s).intake with transport := x } } := by
  have hend : endIfRunning s = flushedEnd s := if_pos hrun
  rw [takeTransport, hcode, hplay]
  simp only [ne_eq, hx, not_false_eq_true, and_self, if_true, hend]

theorem transportOfCode_of_leaving {code : Byte} (h : code = 0 ∨ code = 2 ∨ code = 3) :
    ∃ x, transportOfCode code.toNat = some x ∧ x ≠ .play := by
  obtain rfl | rfl | rfl := h
  · exact ⟨.stop, rfl, by decide⟩
  · exact ⟨.spool, rfl, by decide⟩
  · exact ⟨.pause, rfl, by decide⟩

/-- Settles O18: the flushed end whole, and then what it leaves of the audio, side by side. -/
theorem leavingPlayEndsThePassFlushed : Obligations.LeavingPlayEndsThePassFlushed := by
  unfold Obligations.LeavingPlayEndsThePassFlushed
  intro h code s hphase hplay hrun hcode hwalker hwalkers
  obtain ⟨x, hx, hne⟩ := transportOfCode_of_leaving hcode
  have hexec := exec_deckParcel_of_running h code s hphase
  have hdetectors := flushedAudio_detectors (countReceived .U s)
  have hlog := flushedAudio_log (countReceived .U s)
  have hidle (d : Side) := flushedAudio_of_idle (d := d) (s := countReceived .U s)
  have heq (d : Side) := flushedAudio_eq_of_active (d := d) (s := countReceived .U s)
  have hout (d : Side) := flushedAudio_cleanOut_of_active (d := d) (s := countReceived .U s)
  have hpart (d : Side) := flushedAudio_partial (d := d) (s := countReceived .U s)
  rw [takeTransport_of_leaving (s := countReceived .U s) hx hne hplay hrun, offerDownstream_eq,
    flushedEnd_frame (countReceived .U s)] at hexec
  generalize flushedAudio (countReceived .U s) = u at hexec hdetectors hlog hidle heq hout hpart
  refine ⟨_, hexec, rfl, fun d hd => ?active, fun d hd => ?idle, fun l hl => ?clear, fun l hl => ?unused,
    fun d hd => ⟨hpart d hd, (heq d hd).1⟩, fun l => ?lanes, fun ⟨_, _, hqueues, hpartials, hlength, _⟩ => ⟨fun d hd => ?queued, hlog hlength⟩,
    fun d hd => ?kept, ?intakeWalker, fun d hd => ?sideWalker, rfl, rfl, rfl, rfl, rfl, rfl, rfl, rfl, rfl, rfl, rfl, rfl, rfl⟩
  case active => exact (endTracker_get _ d).trans (endTracker_of_active hd)
  case idle => exact (endTracker_get _ d).trans (endTracker_of_idle hd)
  case clear => exact congrArg Detector.state ((hdetectors l).trans (if_pos hl))
  case unused => exact (hdetectors l).trans (if_neg (by rw [show (countReceived .U s).intake = s.intake from rfl, hl]; decide))
  case lanes =>
    show u.eqLanes.get l = _
    by_cases hd : (s.trackers.get (sideOf l)).state = .idle
    · rw [if_neg fun hno => hno.2 hd]
      exact (hidle _ hd).lanes l rfl
    · rw [(heq _ hd).2 l rfl]
      exact if_congr (and_iff_left hd).symm rfl rfl
  case queued =>
    have hd' := hout d hd (hpartials d)
    refine ⟨fun hup => ?_, fun hdown => ?_⟩
    · rw [show (countReceived .U s).link.link.d = .up from hup, push_foldl_of_up _ _ (hqueues d)] at hd'
      exact ⟨congrArg CleanOut.queue hd', congrArg CleanOut.lost hd'⟩
    · rw [show (countReceived .U s).link.link.d = .down from hdown, push_foldl_of_down] at hd'
      exact ⟨congrArg CleanOut.queue hd', congrArg CleanOut.lost hd'⟩
  case kept =>
    have hsame := (hidle d hd).out
    exact ⟨congrArg CleanOut.frames hsame, congrArg CleanOut.queue hsame, (hidle d hd).side, congrArg CleanOut.lost hsame⟩
  case intakeWalker => exact stopWalker_of_running hwalker
  case sideWalker =>
    refine (stopWalker_get _ d).trans (stopWalker_of_running ?_)
    exact (hwalkers d).trans ((sideActive_iff s d).mpr hd)

end Sys2Proof.Machine
end

section
/-! What the stream only adds to: event flags, notices and damage records. The falls and rises of the ports (R1, R2, R32,
R177) and the RAW parcels that write nothing (R19, R20). -/

namespace Sys2Proof.Machine

/-! ### What the stream only adds to (R143, R145, R146) -/

/-- The damage records, the notices and the event flags. -/
structure Reports where
  log : List DamageRecord
  notices : List Notice
  flags : BitVec 12

/-- Those of a state. -/
def State.reports (s : State) : Reports := ⟨s.log, s.notices, s.flags⟩

/-- The log and the notices of the one continue the other's, and its flags hold every one of the other's. -/
structure Reports.Grown (a b : Reports) : Prop where
  log : a.log <+: b.log
  notices : a.notices <+: b.notices
  flags : ∀ i, a.flags.getLsbD i = true → b.flags.getLsbD i = true

/-- A state has reported what another had, and more. -/
abbrev Reported (s t : State) : Prop := s.reports.Grown t.reports

theorem Reports.Grown.refl (a : Reports) : a.Grown a := ⟨List.prefix_rfl, List.prefix_rfl, fun _ h => h⟩

theorem Reports.Grown.trans {a b c : Reports} (h : a.Grown b) (h' : b.Grown c) : a.Grown c :=
  ⟨h.log.trans h'.log, h.notices.trans h'.notices, fun i hi => h'.flags i (h.flags i hi)⟩

theorem raise_reported (k : EventKind) (s : State) : Reported s (raise k s) where
  log := List.prefix_rfl
  notices := by
    show s.notices <+: (raise k s).notices
    obtain heq | ⟨-, heq⟩ := raise_notices k s
    · rw [heq]
    · rw [heq]
      exact List.prefix_append _ _
  flags i hi := by
    show ((raise k s).flags.getLsbD i = true)
    rw [raise_flags, BitVec.getLsbD_or, show s.flags.getLsbD i = true from hi, Bool.true_or]

theorem raise_flags_self (k : EventKind) (s : State) : (raise k s).flags.getLsbD k.code = true := by
  rw [raise_flags_get, beq_self_eq_true, Bool.or_true]

theorem appendDamage_reported (r : DamageRecord) (s : State) : Reported s (appendDamage r s) := by
  obtain ⟨-, heq⟩ | ⟨-, heq⟩ | ⟨-, -, heq⟩ := appendDamage_cases r s
  · rw [heq]
    exact raise_reported .logFull _
  · rw [heq]
    refine Reports.Grown.trans ?_ (raise_reported .logHigh _)
    exact ⟨List.prefix_append _ _, List.prefix_rfl, fun _ h => h⟩
  · rw [heq]
    exact ⟨List.prefix_append _ _, List.prefix_rfl, fun _ h => h⟩

theorem trimCount_reported (d : Side) (s : State) : Reported s (trimCount d s) := by
  unfold trimCount
  split
  · dsimp only
    split <;> exact ⟨List.prefix_rfl, List.prefix_rfl, fun _ h => h⟩
  · exact Reports.Grown.refl _

theorem appendCue_reported (c : Cue) (s : State) : Reported s (appendCue c s) := by
  unfold appendCue
  split <;> exact ⟨List.prefix_rfl, List.prefix_rfl, fun _ h => h⟩

theorem queueClean_reported (d : Side) (p : CleanParcel) (s : State) : Reported s (queueClean d p s) := by
  unfold queueClean
  split <;> exact ⟨List.prefix_rfl, List.prefix_rfl, fun _ h => h⟩

theorem assemble_reported (d : Side) (f : CleanFrame) (s : State) : Reported s (assemble d f s) := by
  unfold assemble completePartial
  dsimp only
  split
  · split
    · exact Reports.Grown.refl _
    · refine Reports.Grown.trans ?_ (queueClean_reported d _ _)
      exact ⟨List.prefix_rfl, List.prefix_rfl, fun _ h => h⟩
  · exact ⟨List.prefix_rfl, List.prefix_rfl, fun _ h => h⟩

theorem installPending_reported (s : State) : Reported s (installPending s) := by
  rw [installPending_eq]
  exact ⟨List.prefix_rfl, List.prefix_rfl, fun _ h => h⟩

/-- Whatever the stream does, it only adds. -/
theorem streamKeeps_reported (b : State) : StreamKeeps (Reported b) where
  counted _ _ h := h
  raised k s h := h.trans (raise_reported k s)
  history _ _ h := h
  intake _ _ h := h
  detectors _ _ h := h
  updated d s h := updateTracker_preserves (Reported b) (fun _ _ h => h) (fun k s h => h.trans (raise_reported k s))
    (fun _ _ h => h) (fun d s h => h.trans (trimCount_reported d s)) d s h
  forced _ _ _ h := h
  unforced _ _ _ h := h
  trackerStarted _ _ _ h := h
  trackersEnded _ h := h
  resamplers _ _ h := h
  repairs _ _ h := h
  walkers _ _ _ h := h
  freeCount _ _ h := h
  restarted _ h := h
  appended r s h := h.trans (appendDamage_reported r s)
  cued c s h := h.trans (appendCue_reported c s)
  laneTaken _ _ _ _ h := h
  laneStarted _ _ h := h
  sideFilled _ _ _ _ h := h
  sideShifted _ _ _ h := h
  sideFlushing _ _ _ h := h
  sideStarted _ _ h := h
  partialStarted _ _ h := h
  assembled d f s h := h.trans (assemble_reported d f s)
  queued d p s h := h.trans (queueClean_reported d p s)
  queueCut _ _ h := h
  installed s h := h.trans (installPending_reported s)

theorem endIfRunning_reported (s : State) : Reported s (endIfRunning s) :=
  (streamKeeps_reported s).endedIfRunning s (Reports.Grown.refl _)

theorem endIfRunning_of_idle {s : State} (h : s.intake.running = false) : endIfRunning s = s := by
  rw [endIfRunning, h]
  rfl

theorem endIfRunning_of_running {s : State} (h : s.intake.running = true) : endIfRunning s = flushedEnd s := if_pos h

/-- What any flushed end keeps beside the two intake fields it clears. -/
def State.passRest (s : State) : Transport × BitVec 8 × Nat × Quad Ring × List Cue :=
  (s.intake.transport, s.intake.passNumber, s.intake.position, s.history, s.cues)

theorem endIfRunning_passRest (s : State) : (endIfRunning s).passRest = s.passRest := by
  unfold endIfRunning
  split
  · rw [flushedEnd_frame]
    rfl
  · rfl

/-! ### RAW parcels that write nothing (R19, R20) -/

/-- Settles O19: outside PLAY one counter moves; above the last position STREAM_BREAK is noted and a running pass ends. -/
theorem refusedRawParcelsWriteNothing : Obligations.RefusedRawParcelsWriteNothing := by
  unfold Obligations.RefusedRawParcelsWriteNothing
  intro first frames s hphase
  have hexec := exec_rawParcel_of_running first frames hphase
  refine ⟨fun hplay => ?_, fun hplay habove => ⟨_, hexec, ?_⟩⟩
  · rw [hexec, takeRaw_of_not_play (s := countReceived .U s) hplay]
    rfl
  · rw [takeRaw_of_above (s := countReceived .U s) hplay habove]
    have hrest := endIfRunning_passRest (noteBreak (countReceived .U s))
    simp only [State.passRest, Prod.mk.injEq] at hrest
    obtain ⟨htransport, hpass, hposition, hhistory, -⟩ := hrest
    have hcounts := endIfRunning_countsBesideEnd (noteBreak (countReceived .U s))
    have hbreaks := congrArg Counters.streamBreaks hcounts
    have hadmitted := congrArg Counters.framesAdmitted hcounts
    have hreported := endIfRunning_reported (noteBreak (countReceived .U s))
    refine ⟨hhistory, endIfRunning_running _, hposition, hpass, htransport.trans hplay, hbreaks, hadmitted,
      hreported.flags 5 (raise_flags_self .streamBreak _), fun hidle => ?_⟩
    rw [endIfRunning_of_idle (s := noteBreak (countReceived .U s)) hidle]
    rfl

end Sys2Proof.Machine
end

section
/-! The rises and falls of the ports' alive signals (R1, R2, R14, R32, R156, R177). -/

namespace Sys2Proof.Machine

theorem outOfReset_iff (s : State) : outOfReset s = true ↔ s.unit.phase = .startUp ∨ s.unit.phase = .running := by
  rw [outOfReset, Bool.or_eq_true, beq_iff_eq, beq_iff_eq]

section
variable {p : Port} {s : State}

theorem portUp_of_outOfReset (h : s.unit.phase = .startUp ∨ s.unit.phase = .running) : portUp p s = { s with
    link := { s.link with alive := s.link.alive.set p true, link := s.link.link.set p .up } } :=
  if_pos ((outOfReset_iff _).mpr h)

theorem portUp_of_inReset (h : s.unit.phase = .off ∨ s.unit.phase = .held) : portUp p s = { s with
    link := { s.link with alive := s.link.alive.set p true } } := by
  refine if_neg fun hout => ?_
  obtain h' | h' := (outOfReset_iff _).mp hout <;> obtain h | h := h <;> cases h.symm.trans h'

theorem portDown_of_down (h : s.link.link.get p = .down) : portDown p s = { s with
    link := { s.link with alive := s.link.alive.set p false } } :=
  if_neg (by rw [show s.link.link.get p = .down from h]; decide)

/-- Port U's fall: the event, the cut, and then the end of a running pass. -/
theorem portDown_U_of_up (h : s.link.link.u = .up) : portDown .U s = endIfRunning (raise .portDown { s with
    link := { s.link with alive := s.link.alive.set .U false, link := s.link.link.set .U .down, sendingU := none } }) :=
  if_pos h

/-- Port D's fall: the event and the cut, and then the unit reset when the answer to RESET UNIT waits. -/
theorem portDown_D_of_up (h : s.link.link.d = .up) {u : State} (hu : u = raise .portDown { s with
      link := { s.link with alive := s.link.alive.set .D false, link := s.link.link.set .D .down }
      arbiter := { s.arbiter with sending := none } }) :
    portDown .D s = if resetWaits s then unitReset .directive u else u := by
  subst hu
  exact if_pos h

end

theorem resetWaits_iff (s : State) : resetWaits s = true ↔ ∃ a ∈ s.directives, a.kind = 0x51 := by
  simp [resetWaits, kindResetUnit]

/-- A flushed end takes no parcel out of a clean queue. -/
theorem flushedEnd_queue_prefix (d : Side) (s : State) : s.cleanQueues.get d <+: (flushedEnd s).cleanQueues.get d := by
  have hdetectors : (cleanOut d (endDetectors s)).queue = (cleanOut d s).queue := congrArg CleanOut.queue (endDetectors_cleanOut d s)
  have hflushed := flushBoth_queue_prefix d (endDetectors s)
  rw [hdetectors] at hflushed
  rw [flushedEnd_frame]
  exact hflushed

theorem endIfRunning_queue_prefix (d : Side) (s : State) : s.cleanQueues.get d <+: (endIfRunning s).cleanQueues.get d := by
  unfold endIfRunning
  split
  · exact flushedEnd_queue_prefix d s
  · exact List.prefix_rfl

/-- Settles O12: the rise, the fall of a port already down, and the falls of the two ports with what each does after the
event and the cut. -/
theorem portsFollowTheirAliveSignals : Obligations.PortsFollowTheirAliveSignals := by
  unfold Obligations.PortsFollowTheirAliveSignals
  intro s
  refine ⟨fun p h => congrArg done (portUp_of_outOfReset h), fun p h => congrArg done (portUp_of_inReset h),
    fun p h => congrArg done (portDown_of_down h), fun hup => ?fallU, fun hup hnone => ?fallD, fun hup hwaits hline => ?reset⟩
  case fallU =>
    refine ⟨_, congrArg done (portDown_U_of_up hup), ?_⟩
    generalize hv : (raise .portDown { s with
      link := { s.link with alive := s.link.alive.set .U false, link := s.link.link.set .U .down, sendingU := none } }) = v
    have hbeside := endIfRunning_beside v
    simp only [State.beside, Prod.mk.injEq] at hbeside
    obtain ⟨hunit, hlink, harbiter, hdirectives, hsettings, hstore, -, hentries⟩ := hbeside
    have hrest := endIfRunning_passRest v
    simp only [State.passRest, Prod.mk.injEq] at hrest
    obtain ⟨htransport, hpass, hposition, -, hcues⟩ := hrest
    have hreported := endIfRunning_reported v
    have hprefix (d : Side) := endIfRunning_queue_prefix d v
    have hstopped := endIfRunning_running v
    have hflag : v.flags.getLsbD 10 = true := hv ▸ raise_flags_self .portDown _
    have hnotices : s.notices <+: v.notices := hv ▸ (raise_reported .portDown _).notices
    have hlink' : (settleLines (endIfRunning v)).link = { s.link with
        alive := s.link.alive.set .U false, link := s.link.link.set .U .down, sendingU := none } := hlink.trans (hv ▸ rfl)
    refine ⟨hlink', hreported.flags 10 hflag, hstopped, htransport.trans (hv ▸ rfl), hpass.trans (hv ▸ rfl),
      hposition.trans (hv ▸ rfl), hdirectives.trans (hv ▸ rfl), harbiter.trans (hv ▸ rfl), hsettings.trans (hv ▸ rfl),
      hstore.trans (hv ▸ rfl), hunit.trans (hv ▸ rfl), hentries.trans (hv ▸ rfl), ?_, hnotices.trans hreported.notices,
      hcues.trans (hv ▸ rfl), fun d => ?_, fun hrun => ?_, fun hidle => ?_⟩
    · have hlog := hreported.log
      rwa [show v.reports.log = s.log from hv ▸ rfl] at hlog
    · have hqueue := hprefix d
      rwa [show v.cleanQueues = s.cleanQueues from hv ▸ rfl] at hqueue
    · rw [hlink', endIfRunning_of_running (show v.intake.running = true from hv ▸ hrun), ← hv]
    · rw [endIfRunning_of_idle (show v.intake.running = false from hv ▸ hidle), ← hv]
      rfl
  case fallD =>
    have hno : resetWaits s = false := Bool.eq_false_iff.mpr fun h => by
      obtain ⟨a, ha, hkind⟩ := (resetWaits_iff s).mp h
      exact hnone a ha hkind
    refine ⟨_, congrArg done ((portDown_D_of_up hup rfl).trans (if_neg (Bool.eq_false_iff.mp hno))), rfl⟩
  case reset =>
    refine congrArg done (((portDown_D_of_up hup rfl).trans (if_pos ((resetWaits_iff s).mpr hwaits))).trans ?_)
    exact unitReset_of_released .directive hline

end Sys2Proof.Machine
end

section
/-! The engine reset (R33, R137, R140, R149, R176, R188). -/

namespace Sys2Proof.Machine

/-! ### The audio of a discarding end (R137, R140) -/

theorem discardSide_cleanOut (s : State) (d e : Side) (h : sideActive s d = true) : cleanOut e (discardSide s d) =
    if e = d then ⟨[], keptClean d s, countUp (s.counters.cleanDiscarded.get d) ((s.cleanQueues.get d).length - (keptClean d s).length)⟩
    else cleanOut e s := by
  rw [discardSide, if_pos h]
  simp only [cleanOut, withCounters, PerSide.get_modify, PerSide.get_set]
  split
  · next he => rw [he]
  · rfl

theorem discardSide_besideEnd (s : State) (d : Side) : (discardSide s d).besideEnd = s.besideEnd :=
  discardSide_keeps eqKeeps_besideEnd s d

/-- What a discarding end reads of a side at work and its own audio. -/
theorem discardSide_eqState (s : State) (d : Side) :
    (discardSide s d).eqLanes = s.eqLanes ∧ (discardSide s d).eqSides = s.eqSides := by
  unfold discardSide
  split <;> exact ⟨rfl, rfl⟩

/-- The state a discarding end closes. -/
def discardedAudio (s : State) : State := [Side.A, Side.B].foldl discardSide (endDetectors s)

theorem discardedAudio_besideEnd (s : State) : (discardedAudio s).besideEnd = s.besideEnd :=
  (foldl_keeps State.besideEnd _ discardSide_besideEnd _ _).trans (endDetectors_besideEnd s)

theorem discardedAudio_runsView (s : State) : (discardedAudio s).runsView = (endDetectors s).runsView :=
  foldl_keeps State.runsView _ discardSide_runsView _ _

theorem discardedAudio_eqState (s : State) :
    (discardedAudio s).eqLanes = s.eqLanes ∧ (discardedAudio s).eqSides = s.eqSides := by
  obtain ⟨hlanes, hsides⟩ := endDetectors_eqState s
  obtain ⟨hlanesA, hsidesA⟩ := discardSide_eqState (endDetectors s) .A
  obtain ⟨hlanesB, hsidesB⟩ := discardSide_eqState (discardSide (endDetectors s) .A) .B
  exact ⟨hlanesB.trans (hlanesA.trans hlanes), hsidesB.trans (hsidesA.trans hsides)⟩

/-- A side's own audio after a discarding end: at work it keeps a parcel in transmission alone, and counts the others. -/
def discardedOut (d : Side) (s : State) : CleanOut :=
  if sideActive s d = true then
    ⟨[], keptClean d s, countUp (s.counters.cleanDiscarded.get d) ((s.cleanQueues.get d).length - (keptClean d s).length)⟩
  else cleanOut d s

theorem discardSide_cleanOut_same (s : State) (d : Side) : cleanOut d (discardSide s d) = discardedOut d s := by
  unfold discardedOut
  split
  · next h => rw [discardSide_cleanOut s d d h, if_pos rfl]
  · next h => rw [discardSide, if_neg h]

theorem discardSide_cleanOut_of_ne (s : State) {d e : Side} (hne : e ≠ d) : cleanOut e (discardSide s d) = cleanOut e s := by
  by_cases h : sideActive s d = true
  · rw [discardSide_cleanOut s d e h, if_neg hne]
  · rw [discardSide, if_neg h]

/-- It is that of any state with the same audio of the side, trackers and arbiter. -/
theorem discardedOut_of_same {d : Side} {s u : State} (hout : cleanOut d u = cleanOut d s) (hrest : u.besideEnd = s.besideEnd) :
    discardedOut d u = discardedOut d s := by
  have htrackers : u.besideEnd.trackers = s.besideEnd.trackers := by rw [hrest]
  have harbiter : u.besideEnd.arbiter = s.besideEnd.arbiter := by rw [hrest]
  have hqueue : u.cleanQueues.get d = s.cleanQueues.get d := congrArg CleanOut.queue hout
  have hlost : u.counters.cleanDiscarded.get d = s.counters.cleanDiscarded.get d := congrArg CleanOut.lost hout
  unfold discardedOut keptClean sideActive
  rw [show u.trackers = s.trackers from htrackers, show u.arbiter = s.arbiter from harbiter, hqueue, hlost, hout]

theorem discardedAudio_cleanOut (s : State) (d : Side) : cleanOut d (discardedAudio s) = discardedOut d s := by
  have hout := endDetectors_cleanOut d s
  have hrest := endDetectors_besideEnd s
  show cleanOut d (discardSide (discardSide (endDetectors s) .A) .B) = _
  cases d with
  | A => rw [discardSide_cleanOut_of_ne _ (by decide), discardSide_cleanOut_same, discardedOut_of_same hout hrest]
  | B =>
    rw [discardSide_cleanOut_same]
    exact discardedOut_of_same ((discardSide_cleanOut_of_ne _ (by decide)).trans hout) ((discardSide_besideEnd _ _).trans hrest)

/-! ### The end that an engine reset makes (R176) -/

/-- The state whose pass an engine reset closes: that of a discarding end, or the state itself when no pass runs. -/
def resetAudio (s : State) : State := if s.intake.running = true then discardedAudio s else s

theorem resetAudio_reported (s : State) : Reported s (resetAudio s) := by
  unfold resetAudio
  split
  · exact foldl_preserves (Reported s) _ (fun u d hu => (streamKeeps_reported s).discarded u d hu) _ _
      ((streamKeeps_reported s).endedDetectors s (Reports.Grown.refl _))
  · exact Reports.Grown.refl _

theorem resetAudio_cleanOut {s : State} (hidle : s.intake.running = false → ∀ d, (s.trackers.get d).state = .idle) (d : Side) :
    cleanOut d (resetAudio s) = discardedOut d s := by
  unfold resetAudio
  split
  · exact discardedAudio_cleanOut s d
  · next h =>
    refine (if_neg ?_).symm
    rw [sideActive_iff, not_not]
    exact hidle (Bool.eq_false_iff.mpr h) d

theorem stopWalker_of_stopped {w : Walker} (h : w.running = false) : stopWalker w = w := if_neg (Bool.eq_false_iff.mp h)

/-- The end that an engine reset makes: with no pass running, trackers and walkers are at rest already. -/
theorem endForReset_frame {s : State} (hidle : s.intake.running = false → ∀ d, (s.trackers.get d).state = .idle)
    (hintake : s.map.intakeWalker.running = s.intake.running) (hsides : ∀ d, (s.map.sideWalker.get d).running = sideActive s d) :
    endForReset s = { s with
      detectors := (resetAudio s).detectors, partials := (resetAudio s).partials, cleanQueues := (resetAudio s).cleanQueues
      log := (resetAudio s).log, flags := (resetAudio s).flags, notices := (resetAudio s).notices
      counters := (resetAudio s).counters, lines := (resetAudio s).lines
      trackers := ⟨endTracker s.trackers.a, endTracker s.trackers.b⟩
      map := { s.map with
        intakeWalker := stopWalker s.map.intakeWalker
        sideWalker := ⟨stopWalker s.map.sideWalker.a, stopWalker s.map.sideWalker.b⟩ }
      intake := { s.intake with running := false, expected := if s.intake.running then none else s.intake.expected }
      kernel := (tablesInstalled s).1
      eqSets := (tablesInstalled s).2
      stager := { s.stager with install := .none } } := by
  unfold endForReset
  by_cases hrun : s.intake.running = true
  · obtain ⟨hlanes, heqs⟩ := discardedAudio_eqState s
    have haudio : resetAudio s = discardedAudio s := if_pos hrun
    rw [if_pos hrun, haudio, if_pos hrun, show discardingEnd s = closePass (discardedAudio s) from rfl,
      closePass_frame (discardedAudio_besideEnd s), hlanes, heqs]
  · have hstopped : s.intake.running = false := Bool.eq_false_iff.mpr hrun
    have haudio : resetAudio s = s := if_neg hrun
    have htracker (d : Side) : endTracker (s.trackers.get d) = s.trackers.get d := endTracker_of_idle (hidle hstopped d)
    have hwalker (d : Side) : stopWalker (s.map.sideWalker.get d) = s.map.sideWalker.get d := by
      refine stopWalker_of_stopped ?_
      rw [hsides, ← Bool.not_eq_true, sideActive_iff, not_not]
      exact hidle hstopped d
    rw [if_neg hrun, haudio, if_neg hrun, installPending_eq, stopWalker_of_stopped (hintake.trans hstopped),
      show stopWalker s.map.sideWalker.a = s.map.sideWalker.a from hwalker .A,
      show stopWalker s.map.sideWalker.b = s.map.sideWalker.b from hwalker .B,
      show endTracker s.trackers.a = s.trackers.a from htracker .A,
      show endTracker s.trackers.b = s.trackers.b from htracker .B, ← hstopped]
    rfl

/-- A load in progress is abandoned: beside the stager, only the event is reported. -/
theorem abandonForReset_eq (s : State) : abandonForReset s = { s with
    stager := { s.stager with loading := false, timer := if s.stager.loading then none else s.stager.timer }
    flags := (abandonForReset s).flags, notices := (abandonForReset s).notices } := by
  unfold abandonForReset
  by_cases h : s.stager.loading = true
  · rw [if_pos h, if_pos h]
    rfl
  · rw [if_neg h, if_neg h, ← Bool.eq_false_iff.mpr h]

theorem abandonForReset_reported (s : State) : Reported s (abandonForReset s) := by
  unfold abandonForReset
  split
  · exact raise_reported .loadAbandoned (abandonLoad s)
  · exact Reports.Grown.refl _

theorem abandonForReset_flag {s : State} (h : s.stager.loading = true) : (abandonForReset s).flags.getLsbD 7 = true := by
  rw [abandonForReset, if_pos h]
  exact raise_flags_self .loadAbandoned _

theorem engineReset_flags_notices (s : State) : (engineReset s).flags = (abandonForReset (endForReset s)).flags ∧
    (engineReset s).notices = (abandonForReset (endForReset s)).notices := ⟨rfl, rfl⟩

/-- The engine reset over the state whose pass it closes. -/
theorem engineReset_frame {s : State} (hidle : s.intake.running = false → ∀ d, (s.trackers.get d).state = .idle)
    (hintake : s.map.intakeWalker.running = s.intake.running) (hsides : ∀ d, (s.map.sideWalker.get d).running = sideActive s d) :
    engineReset s = { s with
      detectors := (resetAudio s).detectors, partials := (resetAudio s).partials, cleanQueues := (resetAudio s).cleanQueues
      log := (resetAudio s).log, flags := (engineReset s).flags, notices := (engineReset s).notices
      counters := (resetAudio s).counters
      lines := { (resetAudio s).lines with duty := 128, trimCount := 0, trimSum := 0, allLocked := true }
      trackers := ⟨endTracker s.trackers.a, endTracker s.trackers.b⟩
      map := { s.map with
        intakeWalker := stopWalker s.map.intakeWalker
        sideWalker := ⟨stopWalker s.map.sideWalker.a, stopWalker s.map.sideWalker.b⟩ }
      intake := { s.intake with
        running := false, expected := if s.intake.running then none else s.intake.expected
        applied := ⟨s.settings.laneEnable, s.settings.direction, s.settings.window⟩ }
      kernel := (tablesInstalled s).1
      eqSets := (tablesInstalled s).2
      cues := (emptyCues s).cues
      stager := { s.stager with
        loading := false, install := .none, timer := if s.stager.loading then none else s.stager.timer } } := by
  obtain ⟨hflags, hnotices⟩ := engineReset_flags_notices s
  rw [hflags, hnotices, engineReset, abandonForReset_eq]
  generalize (abandonForReset (endForReset s)).flags = flags
  generalize (abandonForReset (endForReset s)).notices = notices
  rw [endForReset_frame hidle hintake hsides]
  rfl

theorem engineReset_reported {s : State} (hidle : s.intake.running = false → ∀ d, (s.trackers.get d).state = .idle)
    (hintake : s.map.intakeWalker.running = s.intake.running) (hsides : ∀ d, (s.map.sideWalker.get d).running = sideActive s d) :
    Reported s (engineReset s) ∧ (s.stager.loading = true → (engineReset s).flags.getLsbD 7 = true) := by
  have hend := endForReset_frame hidle hintake hsides
  have hloading : (endForReset s).stager.loading = s.stager.loading := by rw [hend]
  have hreports : (endForReset s).reports = (resetAudio s).reports := by rw [hend]; rfl
  have hgrown := resetAudio_reported s
  rw [Reported, ← hreports] at hgrown
  exact ⟨hgrown.trans (abandonForReset_reported (endForReset s)), fun h => abandonForReset_flag (hloading.trans h)⟩

/-- The runs that the end of a running pass cuts. -/
theorem resetAudio_log {s : State} (hrun : s.intake.running = true) (h : s.log.length ≤ 64) :
    (resetAudio s).log = (s.log ++ cutRecords s).take 64 ∧
    (resetAudio s).counters.unloggedDropouts =
      countUp s.counters.unloggedDropouts (s.log.length + (cutRecords s).length - 64) ∧
    ∀ l, (resetAudio s).counters.dropoutsClosed.get l =
      if ∃ r ∈ cutRecords s, r.lane = l then countUp (s.counters.dropoutsClosed.get l) 1
      else s.counters.dropoutsClosed.get l := by
  have hruns : (resetAudio s).runsView = (endDetectors s).runsView := by
    rw [resetAudio, if_pos hrun, discardedAudio_runsView]
  simp only [State.runsView, Prod.mk.injEq] at hruns
  obtain ⟨hlog, hunlogged, hclosed, -⟩ := hruns
  rw [hlog, hunlogged, hclosed]
  exact endDetectors_log s h

theorem resetAudio_detectors {s : State} (hrun : s.intake.running = true) {l : Lane}
    (hl : s.intake.applied.laneEnable.get l = true) : ((resetAudio s).detectors.get l).state = .clear := by
  have hruns : (resetAudio s).runsView = (endDetectors s).runsView := by
    rw [resetAudio, if_pos hrun, discardedAudio_runsView]
  simp only [State.runsView, Prod.mk.injEq] at hruns
  obtain ⟨-, -, -, hdetectors⟩ := hruns
  rw [hdetectors, endDetectors_detectors, if_pos hl]

theorem resetAudio_of_idle {s : State} (h : s.intake.running = false) : resetAudio s = s := if_neg (Bool.eq_false_iff.mp h)

theorem discardedOut_of_active {d : Side} {s : State} (h : (s.trackers.get d).state ≠ .idle) : discardedOut d s =
    ⟨[], keptClean d s, countUp (s.counters.cleanDiscarded.get d) ((s.cleanQueues.get d).length - (keptClean d s).length)⟩ :=
  if_pos ((sideActive_iff s d).mpr h)

theorem discardedOut_of_idle {d : Side} {s : State} (h : (s.trackers.get d).state = .idle) : discardedOut d s = cleanOut d s :=
  if_neg (by rw [sideActive_iff, not_not]; exact h)

/-- The parcels discarded from a clean queue are those that are no longer in it. -/
theorem discardedOut_lost (d : Side) (s : State) : (discardedOut d s).lost =
    countUp (s.counters.cleanDiscarded.get d) ((s.cleanQueues.get d).length - (discardedOut d s).queue.length) := by
  by_cases h : (s.trackers.get d).state = .idle
  · rw [discardedOut_of_idle h]
    exact (countUp_zero _).symm.trans (by rw [← Nat.sub_self (s.cleanQueues.get d).length]; rfl)
  · rw [discardedOut_of_active h]

/-- Settles O40: the end of the pass, and then what the reset does to the rest. -/
theorem resetEngineResetsTheChain : Obligations.ResetEngineResetsTheChain := by
  unfold Obligations.ResetEngineResetsTheChain
  intro h s hx hintake hsides hidle
  have hexec : exec (.resetEngine h) s = .next (settleLines (answered 0x50 h .ok [] (engineReset (arrived h [0x50] s)))) :=
    done_takeDirective_of_executes (body := [0x50]) (act := replyResetEngine) hx rfl
  have hframe := engineReset_frame (s := arrived h [0x50] s) hidle hintake hsides
  obtain ⟨⟨-, hnotices, -⟩, hflag⟩ := engineReset_reported (s := arrived h [0x50] s) hidle hintake hsides
  rw [hframe] at hexec
  replace hnotices : s.notices <+: (engineReset (arrived h [0x50] s)).notices := hnotices
  generalize (engineReset (arrived h [0x50] s)).notices = notices at hexec hnotices
  generalize (engineReset (arrived h [0x50] s)).flags = flags at hexec hflag
  have hout (d : Side) := resetAudio_cleanOut (s := arrived h [0x50] s) hidle d
  have hprefix : s.log <+: (resetAudio (arrived h [0x50] s)).log := (resetAudio_reported (arrived h [0x50] s)).log
  have hlog := resetAudio_log (s := arrived h [0x50] s)
  have hclear := resetAudio_detectors (s := arrived h [0x50] s)
  have hquiet := resetAudio_of_idle (s := arrived h [0x50] s)
  generalize resetAudio (arrived h [0x50] s) = u at hexec hout hprefix hlog hclear hquiet
  have hended (d : Side) := endTracker_get s.trackers d
  refine ⟨_, hexec, rfl, rfl, fun d => ?idle, fun d hd => (hended d).trans (endTracker_of_active hd), fun d hd => ?discarded,
    fun d hd => ?kept, fun d => ?counted, fun hrun hlength => hlog hrun hlength, fun hrun => ?quiet, rfl, rfl,
    fun hrun l hl => hclear hrun hl, ?cues, rfl, fun hload => ⟨if_pos hload, hflag hload⟩, fun hload => ?timer,
    rfl, rfl, rfl, rfl, rfl, rfl, rfl, rfl, rfl, ?walker, rfl, rfl, rfl, rfl, rfl, rfl, hprefix, hnotices⟩
  case idle =>
    refine (congrArg Tracker.state (hended d)).trans ?_
    exact endTracker_state _
  case discarded =>
    have hactive := (hout d).trans (discardedOut_of_active hd)
    refine ⟨congrArg CleanOut.frames hactive, (congrArg CleanOut.queue hactive).trans ?_⟩
    show keptClean d s = _
    unfold keptClean
    rcases s.arbiter.sending with - | ⟨source, parcel⟩
    · rfl
    · cases source with
      | clean e => exact if_congr (by rw [Source.clean.injEq]) rfl rfl
      | _ => rfl
  case kept =>
    have hsame := (hout d).trans (discardedOut_of_idle hd)
    exact ⟨congrArg CleanOut.frames hsame, congrArg CleanOut.queue hsame⟩
  case counted =>
    have hlost := discardedOut_lost d (arrived h [0x50] s)
    rw [← hout d] at hlost
    exact hlost
  case quiet =>
    rw [hquiet hrun]
    exact ⟨rfl, rfl⟩
  case cues =>
    show (emptyCues s).cues = _
    unfold emptyCues
    rcases s.arbiter.sending with - | ⟨source, parcel⟩
    · rfl
    · cases source <;> rfl
  case timer => exact if_neg (Bool.eq_false_iff.mp hload)
  case walker => exact stopWalker_running _

end Sys2Proof.Machine
end

section
/-! How the measurement and the skew round (R37, R39, R40, R56, R57). -/

namespace Sys2Proof.Machine

/-- A quotient rounded half up lies within half a divisor. -/
theorem roundedDiv_bounds {a b : Nat} (hb : 0 < b) :
    2 * (b * ((a + b / 2) / b)) ≤ 2 * a + b ∧ 2 * a < 2 * (b * ((a + b / 2) / b)) + b + 1 := by
  have hdiv := Nat.div_add_mod (a + b / 2) b
  have hmod := Nat.mod_lt (a + b / 2) hb
  omega

/-- The whole phase offset of 2^-12 cycle is not negative: the skew is the rounded quotient, at most eight frames. -/
theorem computedSkew_of_nonneg {bias : Nat} {cycles e : Int} (hb : 0 < bias) (hu : 0 ≤ cycles * 4096 + e) :
    ∃ m : Nat, computedSkew bias cycles e = min (m : Int) 134217728 ∧
      2 * ((bias : Int) * m) ≤ 2 * ((cycles * 4096 + e) * 393216000) + bias ∧
      2 * ((cycles * 4096 + e) * 393216000) ≤ 2 * ((bias : Int) * m) + bias := by
  obtain ⟨n, hn⟩ := Int.eq_ofNat_of_zero_le hu
  obtain ⟨hlow, hhigh⟩ := roundedDiv_bounds (a := n * 393216000) hb
  refine ⟨(n * 393216000 + bias / 2) / bias, ?_, ?_⟩
  · unfold computedSkew clamp
    dsimp only
    rw [hn, if_neg (by omega), Int.natAbs_natCast, max_eq_right (le_min (by decide) ((by decide : (-134217728 : Int) ≤ 0).trans (Int.natCast_nonneg _))), min_comm]
  · rw [hn]
    zify at hlow hhigh ⊢
    constructor <;> omega

/-- The skew of the opposite offset is the opposite skew. -/
theorem computedSkew_neg {bias : Nat} (hb : 0 < bias) (cycles e : Int) :
    computedSkew bias (-cycles) (-e) = -computedSkew bias cycles e := by
  have hu : -cycles * 4096 + -e = -(cycles * 4096 + e) := by ring
  have hzero : bias / 2 / bias = 0 := Nat.div_eq_of_lt (Nat.div_lt_self hb (by decide))
  unfold computedSkew clamp
  dsimp only
  rw [hu, Int.natAbs_neg]
  generalize hn : cycles * 4096 + e = u
  obtain hneg | hnone | hpos := Int.lt_trichotomy u 0
  · rw [if_neg (by omega), if_pos hneg]
    omega
  · subst hnone
    simp [hzero]
  · rw [if_pos (by omega), if_neg (by omega)]
    omega

theorem computedSkew_bounds (bias : Nat) (cycles e : Int) :
    computedSkew bias cycles e ≤ 134217728 ∧ -134217728 ≤ computedSkew bias cycles e := by
  obtain ⟨hlow, hhigh⟩ := clamp_mem (lo := -134217728) (hi := 134217728) (by decide) _
  exact ⟨hhigh, hlow⟩

/-- Settles O44: each quotient by its own rounding. -/
theorem measurementAndSkewRoundAsStated : Obligations.MeasurementAndSkewRoundAsStated := by
  unfold Obligations.MeasurementAndSkewRoundAsStated
  refine ⟨fun bias w => ?nominal, fun bias w d hd => ?target, fun r => ?range, fun bias w r => ⟨rfl, rfl, fun d t hd => ?valid⟩,
    fun a b => ?phase, fun phi e => ?average, fun bias cycles e hb => ?skew⟩
  case nominal =>
    have hwhole : 512 * bias * w = 2 * (bias * 256 * w) := by ring
    unfold nominalCount
    rw [hwhole]
    generalize bias * 256 * w = n
    omega
  case target =>
    unfold targetFor
    have hdiv := Nat.div_add_mod (nominalCount bias w * 16777216 + d / 2) d
    have hmod := Nat.mod_lt (nominalCount bias w * 16777216 + d / 2) hd
    omega
  case range =>
    unfold rangeLow rangeHigh
    omega
  case valid =>
    obtain ⟨n, rfl⟩ := Nat.exists_eq_succ_of_ne_zero hd.ne'
    unfold validTarget
    dsimp only
    split
    · next h =>
      constructor
      · rintro ⟨⟩
        exact ⟨rfl, h⟩
      · rintro ⟨rfl, -⟩
        rfl
    · next h =>
      constructor
      · rintro ⟨⟩
      · rintro ⟨rfl, hin⟩
        exact absurd hin h
  case phase =>
    unfold phaseOf
    dsimp only
    refine ⟨?_, ?_, ?_, rfl⟩ <;> split <;> omega
  case average =>
    unfold averageSkew
    omega
  case skew =>
    obtain ⟨hmax, hmin⟩ := computedSkew_bounds bias cycles e
    have hneg := computedSkew_neg hb cycles e
    refine ⟨hmax, hmin, hneg, ?_⟩
    obtain hu | hu := le_or_gt 0 (cycles * 4096 + e)
    · obtain ⟨m, heq, hlow, hhigh⟩ := computedSkew_of_nonneg hb hu
      rw [heq]
      refine ⟨fun _ => by omega, fun hlt _ => ?_, fun hfull => ?_⟩
      · rw [min_eq_left (by omega)]
        obtain ⟨habs, -⟩ | ⟨habs, -⟩ := abs_cases ((bias : Int) * m - (cycles * 4096 + e) * 393216000) <;> rw [habs] <;> omega
      · have hm : (134217728 : Int) ≤ m := by omega
        have := mul_le_mul_of_nonneg_left hm (Int.natCast_nonneg bias)
        omega
    · have hu' : 0 ≤ -cycles * 4096 + -e := by omega
      obtain ⟨m, heq, hlow, hhigh⟩ := computedSkew_of_nonneg hb hu'
      rw [show -cycles * 4096 + -e = -(cycles * 4096 + e) by ring] at hlow hhigh
      have hx : computedSkew bias cycles e = -min (m : Int) 134217728 := by omega
      refine ⟨fun hno => absurd hno hu.not_ge, fun _ hlt => ?_, fun hfull => ?_⟩
      · rw [hx, min_eq_left (by omega), mul_neg]
        obtain ⟨habs, -⟩ | ⟨habs, -⟩ := abs_cases (-((bias : Int) * m) - (cycles * 4096 + e) * 393216000) <;> rw [habs] <;> omega
      · omega

end Sys2Proof.Machine
end

section
/-! The update of a tracker (R37 to R51, R56, R58). -/

namespace Sys2Proof.Machine

/-! ### The measurement (R37, R38, R56) -/

theorem qualifies_laneCount (k : Nat) (used : Bool) (ring : List StampEntry) :
    qualifies used (laneCount k ring) = qualifiedCount k used ring := by
  cases ring with
  | nil => rw [laneCount, if_neg (by simp)]; rfl
  | cons oldest rest =>
    have hlast : (oldest :: rest).getLast? = some (rest.getLast?.getD oldest) := List.getLast?_cons
    have hcount (x y : BitVec 24) : (x - y).toNat = (((x.toNat : Int) - y.toNat) % 16777216).toNat := by
      rw [BitVec.toNat_sub]
      omega
    unfold laneCount qualifiedCount
    rw [hlast]
    by_cases hlen : rest.length = k
    · simp only [List.length_cons, hlen, if_true, List.head?_cons, List.tail_cons, qualifies, hcount, true_and,
        Bool.and_eq_true, List.all_eq_true]
    · rw [if_neg (by simpa using hlen)]
      exact (if_neg fun h : used = true ∧ rest.length = k ∧ ∀ e ∈ rest, e.clean = true => hlen h.2.1).symm

theorem laneCount_newest {k : Nat} {ring : List StampEntry} {c : LaneCount} (h : laneCount k ring = some c) :
    c.newest = newestStamp ring := by
  cases ring with
  | nil => rw [laneCount, if_neg (by simp)] at h; cases h
  | cons oldest rest =>
    unfold laneCount at h
    rw [List.getLast?_cons] at h
    split at h
    · cases h
      rw [newestStamp, List.getLast?_cons]
      rfl
    · cases h

theorem qualifies_ne_none (used : Bool) (m : Option LaneCount) :
    qualifies used m ≠ none ↔ ∃ c, m = some c ∧ used = true ∧ c.clean = true := by
  cases m with
  | none => simp [qualifies]
  | some c => simp [qualifies]

theorem sideCount_eq (r : RefLane) (a b : Option Nat) : sideCount r a b = referenceCount r a b := by
  cases r <;> cases a <;> cases b <;> rfl

/-- The skew average after a measurement, over the counts of the lanes that qualify (R56). -/
theorem averageAfter_eq (d : Side) (s : State) (k : Nat) (first second : List StampEntry) (target : Option Int) (e : Int) :
    averageAfter d s (laneCount k first) (laneCount k second) target.isSome e =
      if target ≠ none ∧ qualifiedCount k (inUse s (firstLane d)) first ≠ none ∧ qualifiedCount k (inUse s (secondLane d)) second ≠ none then
        averageSkew (phaseOf (s.intake.applied.direction.get d) (newestStamp first) (newestStamp second)) e
      else e := by
  simp only [← qualifies_laneCount, qualifies_ne_none]
  unfold averageAfter
  split
  · next a b ha hb =>
    rw [← laneCount_newest ha, ← laneCount_newest hb]
    refine if_congr ?_ rfl rfl
    simp only [ha, hb, Bool.and_eq_true, Option.isSome_iff_ne_none, Option.some.injEq, exists_eq_left']
    tauto
  · next hno =>
    refine (if_neg ?_).symm
    rintro ⟨-, ⟨a, ha, -⟩, b, hb, -⟩
    exact hno a b ha hb

/-! ### The slew and the state rules (R41, R44 to R51) -/

theorem slewToward_eq (slew : Nat) (goal step : Int) : slewToward slew goal step =
    if abs (goal - step) ≤ (slew : Int) then goal else if step < goal then step + slew else step - slew := by
  unfold slewToward clamp
  simp only [abs_le]
  split
  · next h => rw [min_eq_right h.2, max_eq_right h.1]; omega
  · next h =>
    split
    · rw [min_eq_left (by omega), max_eq_right (by omega)]
    · rw [min_eq_right (by omega), max_eq_left (by omega)]; rfl

theorem judgeSeeking_reports (slew lockCount : Nat) (target : Option Int) {t : Tracker} (h : t.state = .acquire ∨ t.state = .free) :
    (judgeSeeking slew lockCount target t).locked = decide ((judgeSeeking slew lockCount target t).next.state = .locked) ∧
    (judgeSeeking slew lockCount target t).lost = false := by
  have hne : t.state ≠ .locked := by obtain h | h := h <;> rw [h] <;> decide
  unfold judgeSeeking
  cases target with
  | none => exact ⟨(decide_eq_false hne).symm, rfl⟩
  | some g =>
    dsimp only
    split
    · exact ⟨rfl, rfl⟩
    · exact ⟨(decide_eq_false hne).symm, rfl⟩

/-- A lock acquisition is a state found at ACQUIRE or FREE and left at LOCKED, a loss one found at HOLD and left at FREE. -/
theorem judgeState_reports (slew lockCount holdLimit : Nat) (target : Option Int) (t : Tracker) :
    (judgeState slew lockCount holdLimit target t).locked = decide ((t.state = .acquire ∨ t.state = .free) ∧
      (judgeState slew lockCount holdLimit target t).next.state = .locked) ∧
    (judgeState slew lockCount holdLimit target t).lost = decide (t.state = .hold ∧
      (judgeState slew lockCount holdLimit target t).next.state = .free) := by
  have hquiet (x : Tracker) (hx : x.state = t.state) : false = decide ((t.state = .acquire ∨ t.state = .free) ∧ x.state = .locked) ∧
      false = decide (t.state = .hold ∧ x.state = .free) := by
    rw [hx]
    cases t.state <;> exact ⟨rfl, rfl⟩
  unfold judgeState
  cases t.force with
  | hold id => exact hquiet t rfl
  | nominal id => exact hquiet _ rfl
  | none =>
    cases hstate : t.state with
    | idle => exact ⟨rfl, rfl⟩
    | acquire =>
      obtain ⟨hlocked, hlost⟩ := judgeSeeking_reports slew lockCount target (Or.inl hstate)
      exact ⟨by simp [hlocked], by simp [hlost]⟩
    | free =>
      obtain ⟨hlocked, hlost⟩ := judgeSeeking_reports slew lockCount target (Or.inr hstate)
      exact ⟨by simp [hlocked], by simp [hlost]⟩
    | locked => cases target <;> simp
    | hold =>
      cases target with
      | some g => simp
      | none =>
        dsimp only
        split <;> simp

/-! ### The update at a boundary (R42) -/

theorem skewAt_eq (entry : Option Int) (mode : SkewMode) (biasHz : Nat) (cycles e : Int) : skewAt entry mode biasHz cycles e =
    match entry with
    | some p => p
    | none => if mode = .auto then computedSkew biasHz cycles e else 0 := by
  cases entry with
  | some p => rfl
  | none => cases mode <;> rfl

/-- The updated tracker in the measurement's own terms. -/
theorem updatedTracker_eq (d : Side) (s : State) : updatedTracker d s =
    let t := s.trackers.get d
    let u := pushRings d s t
    let k := s.intake.applied.window / 16
    let a := qualifiedCount k (s.intake.applied.laneEnable.get (firstLane d)) u.ringFirst
    let b := qualifiedCount k (s.intake.applied.laneEnable.get (secondLane d)) u.ringSecond
    let target := validTarget (s.settings.biasHz.get d) s.intake.applied.window s.settings.speedRange
      (referenceCount (s.settings.reference.get d) a b)
    let average :=
      if target ≠ none ∧ a ≠ none ∧ b ≠ none then
        averageSkew (phaseOf (s.intake.applied.direction.get d) (newestStamp u.ringFirst) (newestStamp u.ringSecond))
          t.skewAverage
      else t.skewAverage
    { (judgeState s.settings.slew s.settings.lockCount s.settings.holdLimit target
        { u with targetStep := target.getD t.targetStep, skewAverage := average }).next with
      skewInForce :=
        match skewEntry s d with
        | some p => p
        | none =>
          if s.settings.skewMode.get d = .auto then
            computedSkew (s.settings.biasHz.get d) (s.settings.skewCycles.get d) average
          else 0 } := by
  unfold updatedTracker trackerJudged
  dsimp only
  rw [judgeState_skew, averageAfter_eq, qualifies_laneCount, qualifies_laneCount, sideCount_eq, skewAt_eq, judgeState_skew]
  rfl

/-- One more for a side, when something happened there. -/
def countedIf (d : Side) (happened : Bool) (x : PerSide (BitVec 32)) : PerSide (BitVec 32) :=
  if happened then x.set d (countUp (x.get d) 1) else x

/-- The update of a side at work: its tracker, the three counters and the event, by the states before and after. -/
theorem updateTracker_of_active {d : Side} {s v : State} (h : (s.trackers.get d).state ≠ .idle) (hv : v = { s with
      trackers := s.trackers.set d (updatedTracker d s)
      counters := { s.counters with
        lockAcquisitions := countedIf d (decide (((s.trackers.get d).state = .acquire ∨ (s.trackers.get d).state = .free) ∧
          (updatedTracker d s).state = .locked)) s.counters.lockAcquisitions
        timeBaseLosses := countedIf d (decide ((s.trackers.get d).state = .hold ∧ (updatedTracker d s).state = .free))
          s.counters.timeBaseLosses
        heldParcels := countedIf d (decide ((updatedTracker d s).state = .hold)) s.counters.heldParcels } }) :
    updateTracker d s = trimCount d (if decide ((s.trackers.get d).state = .hold ∧ (updatedTracker d s).state = .free) then
      raise (lostEvent d) v else v) := by
  obtain ⟨hlocked, hlost⟩ : (trackerJudged d s (s.trackers.get d)).locked =
      decide (((s.trackers.get d).state = .acquire ∨ (s.trackers.get d).state = .free) ∧ (updatedTracker d s).state = .locked) ∧
      (trackerJudged d s (s.trackers.get d)).lost =
      decide ((s.trackers.get d).state = .hold ∧ (updatedTracker d s).state = .free) := judgeState_reports _ _ _ _ _
  have hcount : countUpdate d (trackerJudged d s (s.trackers.get d)) { s with trackers := s.trackers.set d (updatedTracker d s) } = v := by
    rw [hv, countUpdate, hlocked, hlost]
    simp only [countedIf, decide_eq_true_eq]
    rfl
  rw [updateTracker, if_pos ((sideActive_iff s d).mpr h), ← hlost, ← hcount]
  rfl

/-- Settles O45: the update of a side at work in the measurement's own terms, and the rule of each state. -/
theorem trackersMoveByTheirStateRules : Obligations.TrackersMoveByTheirStateRules := by
  unfold Obligations.TrackersMoveByTheirStateRules
  refine ⟨fun d s => ⟨fun hidle => ?idle, fun hactive => ?work⟩, fun slew lockCount holdLimit t =>
    ⟨fun hforce hstate => ?seeking, fun hforce hstate => ?locked, fun hforce hstate => ?hold, fun id target hforce => ?held,
      fun id target hforce => ?nominal⟩⟩
  case idle => exact if_neg (by rw [sideActive_iff, not_not]; exact hidle)
  case work =>
    have hupdate := updateTracker_of_active hactive rfl
    rw [updatedTracker_eq] at hupdate
    exact hupdate
  case seeking =>
    have hseek (target : Option Int) :
        judgeState slew lockCount holdLimit target t = judgeSeeking slew lockCount target t := by
      obtain h | h := hstate <;> simp only [judgeState, hforce, h]
    simp only [← slewToward_eq]
    exact ⟨fun g hg => (hseek _).trans (if_pos hg), fun g hg => (hseek _).trans (if_neg (by omega)), hseek _⟩
  case locked =>
    simp only [← slewToward_eq]
    refine ⟨fun g => ?_, ?_⟩ <;> simp only [judgeState, hforce, hstate]
  case hold =>
    simp only [← slewToward_eq]
    refine ⟨fun g => ?_, fun hcount => ?_, fun hcount => ?_⟩ <;> simp only [judgeState, hforce, hstate]
    · exact if_neg (by omega)
    · exact if_pos hcount
  case held => simp only [judgeState, hforce]
  case nominal =>
    simp only [← slewToward_eq]
    simp only [judgeState, hforce]
    rfl

end Sys2Proof.Machine
end

section
/-! Production (R62 to R74): what one frame does, and how many a boundary makes. -/

namespace Sys2Proof.Machine

/-! ### What a walker's move keeps (R118) -/

/-- What the edges of a side's walker keep: a change of the walker, a cue, and a force taken up or given up. -/
structure WalkKeeps {γ : Type} (g : State → γ) : Prop where
  walkers : ∀ d f s, g (withSideWalker d f s) = g s
  cued : ∀ c s, g (appendCue c s) = g s
  forced : ∀ d e s, g (withTracker d (forceTracker e) s) = g s
  unforced : ∀ d e s, g (withTracker d (unforceTracker e) s) = g s

namespace WalkKeeps

variable {γ : Type} {g : State → γ}

theorem activated (h : WalkKeeps g) (d : Side) (seek : Bool) (s : State) (e : MapEntry) : g (activateEntry d seek s e) = g s := by
  unfold activateEntry
  dsimp only
  split
  · exact (h.forced _ _ _).trans (h.walkers _ _ _)
  · split
    · exact h.walkers _ _ _
    · exact (h.cued _ _).trans (h.walkers _ _ _)
  · exact h.walkers _ _ _

theorem ended (h : WalkKeeps g) (d : Side) (s : State) (e : MapEntry) : g (endEntry d s e) = g s := by
  unfold endEntry
  dsimp only
  split
  · exact (h.unforced _ _ _).trans (h.walkers _ _ _)
  · exact (h.cued _ _).trans (h.walkers _ _ _)
  · exact h.walkers _ _ _

theorem walkedFrom (h : WalkKeeps g) (d : Side) (x n : Nat) (s : State) : g (walkFrom d x n s) = g s := by
  induction n generalizing x s with
  | zero => rfl
  | succ n ih =>
    rw [walkFrom, ih, walkPosition, h.walkers, foldl_keeps g _ (h.activated d false), foldl_keeps g _ (h.ended d)]

theorem walked (h : WalkKeeps g) (d : Side) (x : Nat) (s : State) : g (walkTo d x s) = g s := by
  unfold walkTo
  dsimp only
  split
  · exact h.walkedFrom d _ _ s
  · rfl

end WalkKeeps

/-- The applied step and the skew in force of each side. -/
def State.pace (s : State) (d : Side) : Int × Int := ((s.trackers.get d).appliedStep, (s.trackers.get d).skewInForce)

theorem pace_withTracker {f : Tracker → Tracker} (h : ∀ t, (f t).appliedStep = t.appliedStep ∧ (f t).skewInForce = t.skewInForce)
    (d : Side) (s : State) : (withTracker d f s).pace = s.pace := by
  funext e
  unfold State.pace withTracker
  rw [PerSide.get_modify]
  split
  · next he => rw [he, (h _).1, (h _).2]
  · rfl

theorem forceTracker_pace (e : MapEntry) (t : Tracker) :
    (forceTracker e t).appliedStep = t.appliedStep ∧ (forceTracker e t).skewInForce = t.skewInForce := by
  unfold forceTracker
  split
  · exact ⟨rfl, rfl⟩
  · split <;> exact ⟨rfl, rfl⟩

theorem unforceTracker_pace (e : MapEntry) (t : Tracker) :
    (unforceTracker e t).appliedStep = t.appliedStep ∧ (unforceTracker e t).skewInForce = t.skewInForce := by
  unfold unforceTracker
  split
  · split <;> exact ⟨rfl, rfl⟩
  · split <;> exact ⟨rfl, rfl⟩
  · exact ⟨rfl, rfl⟩

theorem walkKeeps_pace : WalkKeeps State.pace where
  walkers _ _ _ := rfl
  cued c s := by unfold appendCue; split <;> rfl
  forced d e s := pace_withTracker (forceTracker_pace e) d s
  unforced d e s := pace_withTracker (unforceTracker_pace e) d s

theorem walkKeeps_outputFrames : WalkKeeps fun s => s.counters.outputFrames where
  walkers _ _ _ := rfl
  cued c s := by unfold appendCue; split <;> rfl
  forced _ _ _ := rfl
  unforced _ _ _ := rfl

/-! ### One output frame (R63 to R65) -/

/-- The state in which a frame is made: the output cursor set and the walker moved to it. -/
def frameMoved (d : Side) (s : State) : State :=
  walkTo d ((s.resamplers.get d).readPos / 16777216).toNat
    { s with resamplers := s.resamplers.set d { s.resamplers.get d with cursor := ((s.resamplers.get d).readPos / 16777216).toNat } }

theorem frameMoved_pace (d : Side) (s : State) : (frameMoved d s).pace = s.pace := walkKeeps_pace.walked _ _ _

theorem frameMoved_resamplers (d : Side) (s : State) : (frameMoved d s).resamplers.get d =
    { s.resamplers.get d with cursor := ((s.resamplers.get d).readPos / 16777216).toNat } := by
  rw [frameMoved, walkTo_resamplers, PerSide.get_set_same]

theorem repairLane_outputFrames (l : Lane) (x other : Option LaneInput) (s : State) :
    (repairLane l x other s).2.counters.outputFrames = s.counters.outputFrames := by
  cases x <;> rfl

/-- A frame handed on is what its repair stages and its equalizer make of it. -/
theorem handOnFrame_eq (d : Side) (x y : Option LaneInput) (s : State) : handOnFrame d x y s =
    let first := repairLane (firstLane d) x y s
    let second := repairLane (secondLane d) y x first.2
    eqIntake d first.1 second.1 (some ⟨(s.resamplers.get d).frameNumber, (s.resamplers.get d).cursor⟩) { second.2 with
      counters := { second.2.counters with
        outputFrames := second.2.counters.outputFrames.set d (countUp (second.2.counters.outputFrames.get d) 1) } } := rfl

theorem handOnFrame_outputFrames (d : Side) (x y : Option LaneInput) (s : State) :
    (handOnFrame d x y s).counters.outputFrames.get d = countUp (s.counters.outputFrames.get d) 1 := by
  have hcounts := congrArg Counters.outputFrames (eqIntake_countsBesideEnd d (repairLane (firstLane d) x y s).1
    (repairLane (secondLane d) y x (repairLane (firstLane d) x y s).2).1
    (some ⟨(s.resamplers.get d).frameNumber, (s.resamplers.get d).cursor⟩)
    (withCounters (fun c => { c with outputFrames := c.outputFrames.modify d (countUp · 1) })
      (repairLane (secondLane d) y x (repairLane (firstLane d) x y s).2).2))
  refine (congrArg (fun q : PerSide (BitVec 32) => q.get d) hcounts).trans ?_
  show (PerSide.modify _ d _).get d = _
  rw [PerSide.get_modify, if_pos rfl, repairLane_outputFrames, repairLane_outputFrames]

theorem eqKeeps_paceView : EqKeeps fun s => (s.resamplers, s.trackers, s.intake) where
  lanes _ _ := rfl
  sides _ _ := rfl
  partials _ _ := rfl
  queues _ _ := rfl
  counters _ _ := rfl
  raised _ _ := rfl

theorem produceFrame_eq (d : Side) (s : State) : produceFrame d s = withResampler d (advanceResampler (s.trackers.get d).appliedStep)
    (handOnFrame d (laneInput s (firstLane d)) (laneInput s (secondLane d)) (frameMoved d s)) := by
  have hkeeps := handOnFrame_keeps eqKeeps_paceView (fun _ _ => rfl) d (laneInput s (firstLane d)) (laneInput s (secondLane d)) (frameMoved d s)
  simp only [Prod.mk.injEq] at hkeeps
  obtain ⟨-, htrackers, -⟩ := hkeeps
  have hstep : ((frameMoved d s).trackers.get d).appliedStep = (s.trackers.get d).appliedStep :=
    congrArg (fun f => (f d).1) (frameMoved_pace d s)
  rw [← hstep, ← htrackers]
  rfl

theorem produceFrame_resampler (d : Side) (s : State) : (produceFrame d s).resamplers.get d =
    advanceResampler (s.trackers.get d).appliedStep
      { s.resamplers.get d with cursor := ((s.resamplers.get d).readPos / 16777216).toNat } := by
  have hkeeps := handOnFrame_keeps eqKeeps_paceView (fun _ _ => rfl) d (laneInput s (firstLane d)) (laneInput s (secondLane d)) (frameMoved d s)
  simp only [Prod.mk.injEq] at hkeeps
  obtain ⟨hresamplers, -, -⟩ := hkeeps
  rw [produceFrame_eq, withResampler]
  dsimp only
  rw [PerSide.get_modify, if_pos rfl, hresamplers, frameMoved_resamplers]

theorem produceFrame_pace (d : Side) (s : State) : (produceFrame d s).pace = s.pace := by
  have hkeeps := handOnFrame_keeps eqKeeps_paceView (fun _ _ => rfl) d (laneInput s (firstLane d)) (laneInput s (secondLane d)) (frameMoved d s)
  simp only [Prod.mk.injEq] at hkeeps
  obtain ⟨-, htrackers, -⟩ := hkeeps
  rw [produceFrame_eq]
  refine Eq.trans ?_ (frameMoved_pace d s)
  unfold State.pace
  rw [← htrackers]
  rfl

theorem produceFrame_intake (d : Side) (s : State) : (produceFrame d s).intake = s.intake :=
  produceFrame_keeps ⟨⟨fun _ _ => rfl, fun _ _ => rfl, fun _ _ => rfl, fun _ _ => rfl, fun _ _ => rfl, fun _ _ => rfl⟩,
    fun _ _ => rfl, fun _ _ => rfl, fun _ _ => rfl, fun _ _ _ => rfl, fun _ _ _ => rfl⟩ d s

theorem advanceResampler_eq (step : Int) (r : Resampler) : advanceResampler step r =
    if 4294967295 ≤ r.frameNumber then { r with exhausted := true, readPos := r.readPos + step }
    else { r with frameNumber := r.frameNumber + 1, readPos := r.readPos + step } := rfl

/-! ### How many frames a boundary makes (R62, log 18) -/

theorem canProduce_iff (d : Side) (s : State) : canProduce d s = true ↔ MayProduce d s := by
  unfold canProduce MayProduce integerPart
  simp

/-- Frames are made while the condition holds, at most the bound. -/
theorem produceUpTo_eq (d : Side) (n : Nat) (s : State) : ∃ k ≤ n, produceUpTo d n s = (produceFrame d)^[k] s ∧
    (∀ j < k, MayProduce d ((produceFrame d)^[j] s)) ∧ (k < n → ¬ MayProduce d ((produceFrame d)^[k] s)) := by
  induction n generalizing s with
  | zero => exact ⟨0, le_rfl, rfl, fun j hj => absurd hj (Nat.not_lt_zero j), fun h => absurd h (Nat.lt_irrefl 0)⟩
  | succ n ih =>
    rw [produceUpTo]
    by_cases hcan : canProduce d s = true
    · obtain ⟨k, hk, heq, hbefore, hafter⟩ := ih (produceFrame d s)
      refine ⟨k + 1, Nat.succ_le_succ hk, (if_pos hcan).trans heq, fun j hj => ?_, fun h => hafter (Nat.lt_of_succ_lt_succ h)⟩
      cases j with
      | zero => exact (canProduce_iff d s).mp hcan
      | succ j => exact hbefore j (Nat.lt_of_succ_lt_succ hj)
    · exact ⟨0, Nat.zero_le _, if_neg hcan, fun j hj => absurd hj (Nat.not_lt_zero j), fun _ h => hcan ((canProduce_iff d s).mpr h)⟩

/-- What the read position has come to after some frames. -/
theorem iterate_produceFrame (d : Side) (k : Nat) (s : State) :
    ((produceFrame d)^[k] s).pace = s.pace ∧ ((produceFrame d)^[k] s).intake = s.intake ∧
    (((produceFrame d)^[k] s).resamplers.get d).lag = (s.resamplers.get d).lag ∧
    (((produceFrame d)^[k] s).resamplers.get d).readPos = (s.resamplers.get d).readPos + k * (s.trackers.get d).appliedStep := by
  induction k with
  | zero => simp
  | succ k ih =>
    obtain ⟨hpace, hintake, hlag, hread⟩ := ih
    rw [Function.iterate_succ_apply']
    generalize (produceFrame d)^[k] s = u at *
    have hstep : (u.trackers.get d).appliedStep = (s.trackers.get d).appliedStep := congrArg (fun f => (f d).1) hpace
    refine ⟨(produceFrame_pace d u).trans hpace, (produceFrame_intake d u).trans hintake, ?_, ?_⟩
    · rw [produceFrame_resampler, ← hlag, advanceResampler_eq]
      split <;> rfl
    · have hadvanced : ((produceFrame d u).resamplers.get d).readPos = (u.resamplers.get d).readPos + (u.trackers.get d).appliedStep := by
        rw [produceFrame_resampler, advanceResampler_eq]
        split <;> rfl
      rw [hadvanced, hread, hstep]
      push_cast
      ring

/-- The bound the model counts by is never met with the condition still holding. -/
theorem not_mayProduce_at_bound {d : Side} {s : State} (hstep : 0 < (s.trackers.get d).appliedStep) :
    ¬ MayProduce d ((produceFrame d)^[productionBound d s] s) := by
  rintro ⟨-, hmay⟩
  obtain ⟨-, hintake, hlag, hread⟩ := iterate_produceFrame d (productionBound d s) s
  have hbound : productionBound d s = ((((s.intake.position : Int) - (s.resamplers.get d).lag - 1) * 16777216 -
      (s.resamplers.get d).readPos).toNat / (s.trackers.get d).appliedStep.toNat + 1) := rfl
  rw [hintake, hlag, hread] at hmay
  obtain ⟨p, hp⟩ := Int.eq_ofNat_of_zero_le hstep.le
  rw [hp] at hmay hbound hstep
  have hdiv := Nat.lt_mul_div_succ (((s.intake.position : Int) - (s.resamplers.get d).lag - 1) * 16777216 -
      (s.resamplers.get d).readPos).toNat (b := p) (by omega)
  rw [Int.toNat_natCast] at hbound
  rw [← hbound] at hdiv
  generalize productionBound d s = n at *
  have hmul : (n : Int) * (p : Int) = ((p * n : Nat) : Int) := by push_cast; ring
  rw [hmul] at hmay
  omega

/-! ### What a lane gives (R68 to R73) -/

/-- The sum of four products over a list of coefficients that may end before the fourth. -/
theorem sum_zipWith_take_four (l : List Int) (a b c d : Int) : ((l.take 4).zipWith (· * ·) [a, b, c, d]).sum =
    (l[0]?).getD 0 * a + (l[1]?).getD 0 * b + (l[2]?).getD 0 * c + (l[3]?).getD 0 * d := by
  rcases l with - | ⟨w, - | ⟨x, - | ⟨y, - | ⟨z, rest⟩⟩⟩⟩ <;> simp [List.zipWith] <;> ring

theorem div_add_max_mono {x r skew : Int} (h : x = r ∨ x = r + skew) : x / 16777216 ≤ (r + max skew 0) / 16777216 := by
  refine Int.ediv_le_ediv (by decide) ?_
  obtain rfl | rfl := h <;> omega

theorem sourcePosition_eq (s : State) (l : Lane) : sourcePosition s l = (s.resamplers.get (sideOf l)).readPos ∨
    sourcePosition s l = (s.resamplers.get (sideOf l)).readPos + (s.trackers.get (sideOf l)).skewInForce := by
  unfold sourcePosition
  dsimp only
  split
  · exact Or.inr rfl
  · exact Or.inl rfl

theorem produceFrame_outputFrames (d : Side) (s : State) :
    (produceFrame d s).counters.outputFrames.get d = countUp (s.counters.outputFrames.get d) 1 := by
  have hmoved : (frameMoved d s).counters.outputFrames = s.counters.outputFrames := walkKeeps_outputFrames.walked _ _ _
  rw [produceFrame_eq, ← hmoved]
  exact handOnFrame_outputFrames d _ _ _

/-- The four source frames, counted from the first. -/
theorem sourceWindow_eq (s : State) (l : Lane) (x : Int) : sourceWindow s l x =
    [sourceFrame s l (x / 16777216 - 1 + 0), sourceFrame s l (x / 16777216 - 1 + 1), sourceFrame s l (x / 16777216 - 1 + 2),
      sourceFrame s l (x / 16777216 - 1 + 3)] := by
  rw [show x / 16777216 - 1 + 0 = x / 16777216 - 1 by ring, show x / 16777216 - 1 + 1 = x / 16777216 by ring,
    show x / 16777216 - 1 + 2 = x / 16777216 + 1 by ring, show x / 16777216 - 1 + 3 = x / 16777216 + 2 by ring]
  rfl

/-- A saturation that changed its value is one out of range. -/
theorem saturate_bne (y : Int) : (saturate y != y) = decide (y < -8388608 ∨ 8388607 < y) := by
  obtain ⟨hlow, hhigh⟩ := saturate_mem_range y
  rw [Bool.eq_iff_iff, bne_iff_ne, decide_eq_true_iff]
  constructor
  · intro hne
    by_contra hin
    exact hne (saturate_of_mem_range (by omega) (by omega))
  · intro hout heq
    omega

theorem quotient_bounds {n y : Int} (h : (n + 8192) / 16384 = y) : 16384 * y ≤ n + 8192 ∧ n + 8192 < 16384 * y + 16384 := by
  omega

theorem withResampler_eq (d : Side) (f : Resampler → Resampler) (u : State) : withResampler d f u =
    { u with resamplers := u.resamplers.set d ((withResampler d f u).resamplers.get d) } := by
  unfold withResampler
  rw [PerSide.get_modify, if_pos rfl]
  rfl

/-- Settles O47: one frame by its own equation, and a boundary's frames by induction on the model's bound. -/
theorem productionGoesOnWhileItsConditionHolds : Obligations.ProductionGoesOnWhileItsConditionHolds := by
  unfold Obligations.ProductionGoesOnWhileItsConditionHolds
  refine ⟨fun d s => ?frame, fun d s => ⟨fun hidle => ?idle, fun hactive hstep => ?made⟩, fun l s hmay x hx => ?below,
    fun s d => ?position, fun s l x => ?input, fun d s => ?whole⟩
  case frame =>
    dsimp only
    rw [produceFrame_resampler, advanceResampler_eq, produceFrame_outputFrames]
    by_cases hlast : 4294967295 ≤ (s.resamplers.get d).frameNumber
    · rw [if_pos hlast]
      exact ⟨rfl, rfl, rfl, fun h => absurd h hlast.not_gt, fun _ => ⟨rfl, rfl⟩, rfl⟩
    · rw [if_neg hlast]
      exact ⟨rfl, rfl, rfl, fun _ => ⟨rfl, rfl⟩, fun h => absurd h hlast, rfl⟩
  case idle => exact if_neg (by rw [sideActive_iff, not_not]; exact hidle)
  case made =>
    obtain ⟨k, hk, heq, hbefore, hafter⟩ := produceUpTo_eq d (productionBound d s) s
    have hproduced : production d s = (produceFrame d)^[k] s := (if_pos ((sideActive_iff s d).mpr hactive)).trans heq
    refine ⟨k, hproduced, hbefore, ?_⟩
    rw [hproduced]
    obtain hlt | rfl := Nat.lt_or_eq_of_le hk
    · exact hafter hlt
    · exact not_mayProduce_at_bound hstep
  case below =>
    have hread : x = (s.resamplers.get (sideOf l)).readPos ∨
        x = (s.resamplers.get (sideOf l)).readPos + (s.trackers.get (sideOf l)).skewInForce := by
      obtain rfl | hread := hx
      · exact sourcePosition_eq s l
      · exact Or.inl hread
    have hle := div_add_max_mono hread
    obtain ⟨-, hmay⟩ := hmay
    omega
  case position => cases d <;> exact ⟨rfl, rfl⟩
  case input =>
    obtain ⟨y, hy⟩ : ∃ y, interpolate (coefficients s.kernel (phaseIndex x)) ((sourceWindow s l x).map (·.sample)) = y := ⟨_, rfl⟩
    have hinput : laneInputAt s l x = ⟨saturate y, saturate y != y, (sourceWindow s l x).any (·.damaged),
        (sourceWindow s l x).any (·.gap)⟩ := by rw [← hy]; rfl
    have hsum := sum_zipWith_take_four (s.kernel.drop (4 * ((x % 16777216) / 16384).toNat))
      (sourceFrame s l (x / 16777216 - 1 + 0)).sample (sourceFrame s l (x / 16777216 - 1 + 1)).sample
      (sourceFrame s l (x / 16777216 - 1 + 2)).sample (sourceFrame s l (x / 16777216 - 1 + 3)).sample
    simp only [List.getElem?_drop] at hsum
    rw [sourceWindow_eq] at hy hinput
    have hquotient := congrArg (fun z : Int => (z + 8192) / 16384) hsum
    replace hquotient := hquotient.symm.trans hy
    obtain ⟨hlow, hhigh⟩ := quotient_bounds hquotient
    refine ⟨y, hlow, hhigh, hinput.trans ?_⟩
    · rw [saturate_bne]
      simp only [List.any_cons, List.any_nil, Bool.or_false, ← Bool.or_assoc]
      rfl
  case whole =>
    have hmade := withResampler_eq d (advanceResampler (s.trackers.get d).appliedStep)
      (handOnFrame d (laneInput s (firstLane d)) (laneInput s (secondLane d)) (frameMoved d s))
    rw [← produceFrame_eq, handOnFrame_eq, frameMoved_resamplers] at hmade
    exact hmade

end Sys2Proof.Machine
end

section
/-! The dropout detector (R81 to R90): what it marks, and the runs it opens and closes. -/

namespace Sys2Proof.Machine

/-! ### Marks (R88) -/

/-- Marks change the lane's ring and its count of frames marked, and nothing else. -/
theorem markRun_frame (l : Lane) (p n : Nat) (s : State) : markRun l p n s = { s with
    history := (markRun l p n s).history
    counters := { s.counters with
      markedFrames := s.counters.markedFrames.set l (countUp (s.counters.markedFrames.get l) n) } } := by
  induction n generalizing p s with
  | zero =>
    have hsame : s.counters.markedFrames.set l (countUp (s.counters.markedFrames.get l) 0) = s.counters.markedFrames := by
      refine Quad.ext_get fun m => ?_
      rw [Quad.get_set, countUp_zero]
      split
      · next h => rw [h]
      · rfl
    rw [hsame]
    rfl
  | succ n ih =>
    have hcount : (markFrame l p s).counters.markedFrames.set l (countUp ((markFrame l p s).counters.markedFrames.get l) n) =
        s.counters.markedFrames.set l (countUp (s.counters.markedFrames.get l) (n + 1)) := by
      refine Quad.ext_get fun m => ?_
      show ((s.counters.markedFrames.modify l (countUp · 1)).set l (countUp ((s.counters.markedFrames.modify l (countUp · 1)).get l) n)).get m = _
      rw [Quad.get_set, Quad.get_set, Quad.get_modify, Quad.get_modify, if_pos rfl, countUp_countUp, Nat.add_comm 1 n]
      split <;> rfl
    rw [markRun, ih, hcount]
    rfl

theorem markRun_history_of_ne {l m : Lane} (h : m ≠ l) (p n : Nat) (s : State) :
    (markRun l p n s).history.get m = s.history.get m :=
  markRun_keeps (fun u => u.history.get m) l (fun p u => by
    show (u.history.modify l _).get m = _
    rw [Quad.get_modify, if_neg h]) p n s

/-- An entry of the lane's ring after one mark. -/
theorem markFrame_entry (l : Lane) (p j : Nat) {s : State} (h : HistoryCanonical s) :
    ringRead ((markFrame l p s).history.get l) j = { ringRead (s.history.get l) j with
      damaged := (ringRead (s.history.get l) j).damaged || decide (j = p % 2048) } := by
  have hring : (markFrame l p s).history.get l =
      ringWrite (s.history.get l) (p % 2048) { ringRead (s.history.get l) (p % 2048) with damaged := true } := by
    show (s.history.modify l _).get l = _
    rw [Quad.get_modify, if_pos rfl]
    rfl
  rw [hring]
  by_cases hj : j = p % 2048
  · subst hj
    rw [ringRead_write_same _ _ _ (h l).1]
    simp
  · rw [ringRead_write_other _ _ _ _ hj]
    simp [hj]

/-- An entry of the lane's ring after a run of marks. -/
theorem markRun_entry (l : Lane) (p n j : Nat) {s : State} (h : HistoryCanonical s) {hit : Bool}
    (hhit : hit = true ↔ ∃ i < n, j = (p + i) % 2048) : ringRead ((markRun l p n s).history.get l) j =
      { ringRead (s.history.get l) j with damaged := (ringRead (s.history.get l) j).damaged || hit } := by
  induction n generalizing p s hit with
  | zero =>
    obtain rfl : hit = false := Bool.eq_false_iff.mpr fun ht => by
      obtain ⟨i, hi, -⟩ := hhit.mp ht
      exact absurd hi (Nat.not_lt_zero i)
    rw [Bool.or_false]
    rfl
  | succ n ih =>
    have hlater : decide (∃ i < n, j = (p + 1 + i) % 2048) = true ↔ ∃ i < n, j = (p + 1 + i) % 2048 := decide_eq_true_iff
    have hsplit : hit = (decide (j = p % 2048) || decide (∃ i < n, j = (p + 1 + i) % 2048)) := by
      rw [Bool.eq_iff_iff, hhit, Bool.or_eq_true, decide_eq_true_iff, decide_eq_true_iff]
      constructor
      · rintro ⟨i, hi, hj⟩
        cases i with
        | zero => exact Or.inl hj
        | succ i => exact Or.inr ⟨i, Nat.lt_of_succ_lt_succ hi, by rw [hj, Nat.add_right_comm]; rfl⟩
      · rintro (hj | ⟨i, hi, hj⟩)
        · exact ⟨0, Nat.succ_pos n, hj⟩
        · exact ⟨i + 1, Nat.succ_lt_succ hi, by rw [hj, Nat.add_right_comm]; rfl⟩
    rw [markRun, ih (p + 1) (markFrame_wf l p s h) hlater, markFrame_entry l p j h, hsplit, Bool.or_assoc]

/-! ### Runs of frames (R84 to R87) -/

/-- The detector after the first `n` of some frames, all low or none. -/
def examined (inEff out pos : Nat) (low : Bool) (es : List HistEntry) (d : Detector) (n : Nat) : Detector :=
  ((es.take n).zipIdx).foldl (fun (u : Detector) x => (examineFrame inEff out low (pos + x.2) x.1 u).next) d

section
variable {inEff out pos : Nat} {es : List HistEntry} {d : Detector} {n : Nat} {e : HistEntry}

theorem examined_zero (low : Bool) : examined inEff out pos low es d 0 = d := rfl

theorem examined_succ {low : Bool} (h : es[n]? = some e) : examined inEff out pos low es d (n + 1) =
    (examineFrame inEff out low (pos + n) e (examined inEff out pos low es d n)).next := by
  obtain ⟨hn, rfl⟩ := List.getElem?_eq_some_iff.mp h
  rw [examined, List.take_succ_eq_append_getElem hn, List.zipIdx_append, List.foldl_append, List.length_take_of_le hn.le]
  rw [Nat.zero_add]
  rfl

/-- Low frames from CLEAR, fewer than N_in_eff. -/
structure SuspectRun (es : List HistEntry) (pos n : Nat) (d : Detector) : Prop where
  state : d.state = .suspect
  count : d.count = n
  start : d.start = pos
  below : ∀ e ∈ es.take n, d.lowest ≤ e.level
  met : ∃ e ∈ es.take n, d.lowest = e.level
  gap : d.gap = true ↔ ∃ e ∈ es.take n, e.gap = true

theorem examined_suspect (hclear : d.state = .clear) (hpos : 1 ≤ n) (hin : n < inEff) (hlen : n ≤ es.length) :
    SuspectRun es pos n (examined inEff out pos true es d n) := by
  induction n, hpos using Nat.le_induction with
  | base =>
    obtain ⟨e, rest, rfl⟩ := List.exists_cons_of_length_pos hlen
    have hfirst : examined inEff out pos true (e :: rest) d 1 = ⟨.suspect, 1, pos, e.level, e.gap⟩ := by
      rw [examined_succ (e := e) rfl]
      show (examineFrame inEff out true (pos + 0) e d).next = _
      simp only [examineFrame, hclear, if_neg (Nat.not_le.mpr hin), Nat.add_zero]
    rw [hfirst]
    exact ⟨rfl, rfl, rfl, by simp, by simp, by simp⟩
  | succ n hn ih =>
    obtain ⟨hstate, hcount, hstart, hbelow, ⟨f, hf, hmet⟩, hgap⟩ := ih (by omega) (by omega)
    have he : es[n]? = some es[n] := List.getElem?_eq_getElem hlen
    have htake : es.take (n + 1) = es.take n ++ [es[n]] := List.take_succ_eq_append_getElem hlen
    have hnext : examined inEff out pos true es d (n + 1) =
        { joinRun (examined inEff out pos true es d n) es[n] with count := n + 1 } := by
      rw [examined_succ he]
      simp only [examineFrame, hstate, hcount, joinRun, if_neg (Nat.not_le.mpr hin)]
    rw [hnext]
    refine ⟨hstate, rfl, hstart, fun e hmem => ?_, ?_, ?_⟩
    · rw [htake, List.mem_append, List.mem_singleton] at hmem
      obtain hmem | rfl := hmem
      · exact (min_le_left _ _).trans (hbelow e hmem)
      · exact min_le_right _ _
    · obtain hle | hle := le_total (examined inEff out pos true es d n).lowest es[n].level
      · exact ⟨f, by rw [htake]; exact List.mem_append_left _ hf, (min_eq_left hle).trans hmet⟩
      · exact ⟨es[n], by rw [htake]; exact List.mem_append_right _ (List.mem_singleton_self _), min_eq_right hle⟩
    · show ((examined inEff out pos true es d n).gap || es[n].gap) = true ↔ _
      simp only [Bool.or_eq_true, hgap, htake, List.mem_append, List.mem_singleton, or_and_right, exists_or, exists_eq_left]

/-- Frames that are not low from DROPOUT, fewer than N_out. -/
theorem examined_recovering (hdropout : d.state = .dropout) (hpos : 1 ≤ n) (hout : n < out) (hlen : n ≤ es.length) :
    (examined inEff out pos false es d n).state = .recovering ∧ (examined inEff out pos false es d n).count = n := by
  induction n, hpos using Nat.le_induction with
  | base =>
    obtain ⟨e, rest, rfl⟩ := List.exists_cons_of_length_pos hlen
    rw [examined_succ (e := e) rfl]
    show (examineFrame inEff out false (pos + 0) e d).next.state = _ ∧ (examineFrame inEff out false (pos + 0) e d).next.count = _
    simp only [examineFrame, hdropout, if_neg (Nat.not_le.mpr hout), and_self]
  | succ n hn ih =>
    obtain ⟨hstate, hcount⟩ := ih (by omega) (by omega)
    rw [examined_succ (List.getElem?_eq_getElem hlen)]
    simp only [examineFrame, hstate, hcount, if_neg (Nat.not_le.mpr hout), joinRun, and_self]

end

/-! ### The last frame of a run (R85 to R87) -/

section
variable {inEff out pos : Nat} {es : List HistEntry} {d : Detector} {n : Nat} {e : HistEntry}

/-- A low frame before the N_in_eff-th marks nothing. -/
theorem markCount_of_short (hclear : d.state = .clear) (hin : n + 1 < inEff) (he : es[n]? = some e) :
    (examineFrame inEff out true (pos + n) e (examined inEff out pos true es d n)).markCount = 0 := by
  cases n with
  | zero =>
    rw [examined_zero]
    simp only [examineFrame, hclear, if_neg (Nat.not_le.mpr hin)]
  | succ n =>
    obtain ⟨hlen, -⟩ := List.getElem?_eq_some_iff.mp he
    obtain ⟨hstate, hcount, -, -, -, -⟩ :=
      examined_suspect (out := out) (pos := pos) hclear (Nat.succ_pos n) (Nat.lt_of_succ_lt hin) hlen.le
    simp only [examineFrame, hstate, hcount, if_neg (Nat.not_le.mpr hin)]

/-- The N_in_eff-th low frame makes the run a DROPOUT and marks all of it. -/
theorem examineFrame_of_full (hclear : d.state = .clear) (he : es[max inEff 1 - 1]? = some e) :
    let x := examineFrame inEff out true (pos + (max inEff 1 - 1)) e (examined inEff out pos true es d (max inEff 1 - 1))
    x.next.state = .dropout ∧ x.markFrom = pos ∧ x.markCount = max inEff 1 ∧ x.closed = none := by
  by_cases hone : inEff ≤ 1
  · dsimp only
    rw [max_eq_right hone, Nat.sub_self, examined_zero]
    simp only [examineFrame, hclear, if_pos hone, Nat.add_zero, and_self]
  · rw [max_eq_left (by omega)] at he ⊢
    obtain ⟨hlen, -⟩ := List.getElem?_eq_some_iff.mp he
    obtain ⟨hstate, hcount, hstart, -, -, -⟩ :=
      examined_suspect (inEff := inEff) (out := out) (pos := pos) hclear (show 1 ≤ inEff - 1 by omega) (by omega) hlen.le
    simp only [examineFrame, hstate, hcount, hstart, if_pos (show inEff ≤ inEff - 1 + 1 by omega), true_and, and_true]
    omega

/-- A frame that is not low before the N_out-th is marked. -/
theorem examineFrame_of_recovering (hdropout : d.state = .dropout) (hout : n + 1 < out) (he : es[n]? = some e) :
    let x := examineFrame inEff out false (pos + n) e (examined inEff out pos false es d n)
    x.next.state = .recovering ∧ x.markFrom = pos + n ∧ x.markCount = 1 ∧ x.closed = none := by
  cases n with
  | zero =>
    rw [examined_zero]
    simp only [examineFrame, hdropout, if_neg (Nat.not_le.mpr hout), and_self]
  | succ n =>
    obtain ⟨hlen, -⟩ := List.getElem?_eq_some_iff.mp he
    obtain ⟨hstate, hcount⟩ :=
      examined_recovering (inEff := inEff) (pos := pos) hdropout (Nat.succ_pos n) (Nat.lt_of_succ_lt hout) hlen.le
    simp only [examineFrame, hstate, hcount, if_neg (Nat.not_le.mpr hout), joinRun, and_self]

/-- The N_out-th closes the run at the frame before it. -/
theorem examineFrame_of_closing (hdropout : d.state = .dropout) (he : es[max out 1 - 1]? = some e) :
    let x := examineFrame inEff out false (pos + (max out 1 - 1)) e (examined inEff out pos false es d (max out 1 - 1))
    x.next.state = .clear ∧ x.markCount = 0 ∧ x.closed = some (pos + (max out 1 - 1) - 1) := by
  by_cases hone : out ≤ 1
  · dsimp only
    rw [max_eq_right hone, Nat.sub_self, examined_zero]
    simp only [examineFrame, hdropout, if_pos hone, and_self]
  · rw [max_eq_left (by omega)] at he ⊢
    obtain ⟨hlen, -⟩ := List.getElem?_eq_some_iff.mp he
    obtain ⟨hstate, hcount⟩ :=
      examined_recovering (inEff := inEff) (out := out) (pos := pos) hdropout (show 1 ≤ out - 1 by omega) (by omega) hlen.le
    simp only [examineFrame, hstate, hcount, if_pos (show out ≤ out - 1 + 1 by omega), and_self]

end

/-- A frame presented: the marks it makes, and the run it closes. -/
theorem presentFrame_marks (l : Lane) (pos : Nat) {s : State} (hwf : HistoryCanonical s) : ∃ x : Examined,
    x = examineFrame (nInEff s.settings.nIn s.intake.applied.window) s.settings.nOut
      (isLow (thresholdInForce s l) (historyAt s l pos)) pos (historyAt s l pos) (s.detectors.get l) ∧
    ∃ marked : State,
      marked = { s with
        detectors := s.detectors.set l x.next
        history := marked.history
        counters := { s.counters with
          markedFrames := s.counters.markedFrames.set l (countUp (s.counters.markedFrames.get l) x.markCount) } } ∧
      (∀ m, m ≠ l → marked.history.get m = s.history.get m) ∧
      (∀ j < 2048, ∀ hit : Bool, (hit = true ↔ ∃ i < x.markCount, j = (x.markFrom + i) % 2048) →
        ringRead (marked.history.get l) j =
          { ringRead (s.history.get l) j with damaged := (ringRead (s.history.get l) j).damaged || hit }) ∧
      presentFrame l pos s =
        (match x.closed with
        | none => marked
        | some stop => closeRun l (s.detectors.get l) stop false marked) := by
  obtain ⟨x, t, hx, ht, hpresented⟩ := presentFrame_eq l pos s
  refine ⟨x, hx, t, ?_, fun m hm => ?_, fun j _ hit hhit => ?_, ?_⟩
  · subst ht
    exact markRun_frame l x.markFrom x.markCount { s with detectors := s.detectors.set l x.next }
  · subst ht
    exact markRun_history_of_ne hm x.markFrom x.markCount { s with detectors := s.detectors.set l x.next }
  · subst ht
    exact markRun_entry l x.markFrom x.markCount j (s := { s with detectors := s.detectors.set l x.next }) hwf hhit
  · obtain ⟨hclosed, hpresented⟩ | ⟨stop, hclosed, hpresented⟩ := hpresented
    · rw [hclosed]
      exact hpresented
    · rw [hclosed]
      exact hpresented

/-- A run that closes NORMAL is counted, and offered to the log with the pass number. -/
theorem closeRun_of_intake {l : Lane} {d : Detector} {stop : Nat} {s t : State} (h : t.intake = s.intake) : closeRun l d stop false t =
    appendDamage ⟨l, d.start, stop, d.lowest, d.gap, false, s.intake.passNumber⟩ { t with
      counters := { t.counters with dropoutsClosed := t.counters.dropoutsClosed.set l (countUp (t.counters.dropoutsClosed.get l) 1) } } := by
  rw [← h]
  rfl

/-- Settles O48: the marks of a frame, and then a run of low frames and a run of others, frame by frame. -/
theorem detectorsOpenAndCloseRuns : Obligations.DetectorsOpenAndCloseRuns := by
  unfold Obligations.DetectorsOpenAndCloseRuns
  refine ⟨fun threshold e => ?low, fun _ _ => rfl, fun inEff out pos e d hstate => ?forgotten, fun l pos s hwf => ?presented,
    fun inEff out pos es d => ⟨fun hclear => ⟨fun n hpos hin hlen => ?suspect, fun n e hin he => markCount_of_short hclear hin he,
      fun e he => examineFrame_of_full hclear he⟩,
      fun hdropout => ⟨fun e => ?marked, fun n e hout he => examineFrame_of_recovering hdropout hout he,
        fun e he => examineFrame_of_closing hdropout he⟩, fun hrecovering e => ?back⟩⟩
  case low => simp [isLow]
  case forgotten => simp only [examineFrame, hstate, and_self]
  case presented =>
    obtain ⟨x, rfl, marked, hframe, hother, hentry, hpresented⟩ := presentFrame_marks l pos hwf
    have hpass : marked.intake = s.intake := by rw [hframe]
    simp only [closeRun_of_intake hpass] at hpresented
    exact ⟨marked, hframe, hother, hentry, hpresented⟩
  case suspect =>
    obtain ⟨hstate, hcount, hstart, hbelow, hmet, hgap⟩ := examined_suspect (out := out) (pos := pos) hclear hpos hin hlen
    exact ⟨hstate, hcount, hstart, hbelow, hmet, hgap⟩
  case marked => simp only [examineFrame, hdropout, joinRun]
  case back => simp only [examineFrame, hrecovering, and_self]

end Sys2Proof.Machine
end

section
/-! The equalizer of a side (R128 to R136): its filter, its delay of 31 intakes, and the frame it puts out. -/

namespace Sys2Proof.Machine

/-! ### The filter (R129) -/

/-- A sum of products of two lists, place by place. -/
theorem sum_zipWith_mul {n : Nat} {xs ys : List Int} (hx : xs.length = n) (hy : ys.length = n) :
    (xs.zipWith (· * ·) ys).sum = ((List.range n).map fun k => (xs[k]?).getD 0 * (ys[k]?).getD 0).sum := by
  congr 1
  refine List.ext_getElem (by simp [hx, hy]) fun k hk hk' => ?_
  rw [List.length_map, List.length_range] at hk'
  rw [List.getElem_zipWith, List.getElem_map, List.getElem_range, List.getElem?_eq_getElem (by omega), List.getElem?_eq_getElem (by omega)]
  rfl

/-- The 63 taps mirror the 32 coefficients about the last. -/
theorem getElem?_tapsOf {h : List Int} (hlen : h.length = 32) {k : Nat} (hk : k < 63) :
    (tapsOf h)[k]? = if k < 32 then h[k]? else h[62 - k]? := by
  rw [tapsOf]
  split
  · next hlt => rw [List.getElem?_append_left (by omega)]
  · next hge =>
    have hhalf : (h.take 31).length = 31 := by rw [List.length_take, hlen]; rfl
    rw [List.getElem?_append_right (by omega), List.getElem?_reverse (by omega), hhalf, List.getElem?_take_of_lt (by omega)]
    congr 1
    omega

theorem tapSum_eq {h delay : List Int} (hlen : h.length = 32) (hdelay : delay.length = 63) : tapSum h delay =
    ((List.range 63).map fun k => (if k < 32 then (h[k]?).getD 0 else (h[62 - k]?).getD 0) * (delay[k]?).getD 0).sum := by
  have htaps : (tapsOf h).length = 63 := by simp [tapsOf, hlen]
  rw [tapSum, sum_zipWith_mul htaps hdelay]
  congr 1
  refine List.map_congr_left fun k hk => ?_
  rw [getElem?_tapsOf hlen (List.mem_range.mp hk)]
  split <;> rfl

/-- A factory set passes the centre sample. -/
theorem filterRaw_flatEq {delay : List Int} (hdelay : delay.length = 63) : filterRaw flatEq delay = (delay[31]?).getD 0 := by
  have htap : ∀ k < 63, (if k < 32 then (flatEq[k]?).getD 0 else (flatEq[62 - k]?).getD 0) = if k = 31 then 1048576 else 0 := by
    decide
  have hsum : tapSum flatEq delay = 1048576 * (delay[31]?).getD 0 := by
    rw [tapSum_eq rfl hdelay]
    calc ((List.range 63).map fun k => (if k < 32 then (flatEq[k]?).getD 0 else (flatEq[62 - k]?).getD 0) * (delay[k]?).getD 0).sum
        = ((List.range 63).map fun k => if k = 31 then 1048576 * (delay[k]?).getD 0 else 0).sum := by
          congr 1
          refine List.map_congr_left fun k hk => ?_
          rw [htap k (List.mem_range.mp hk), ite_mul, zero_mul]
      _ = ∑ k ∈ Finset.range 63, if k = 31 then 1048576 * (delay[k]?).getD 0 else 0 := rfl
      _ = 1048576 * (delay[31]?).getD 0 := by rw [Finset.sum_ite_eq' (Finset.range 63) 31, if_pos (by decide)]
  rw [filterRaw, hsum]
  omega

/-! ### The delays of a side (R128) -/

/-- A side's frame delay after an intake. -/
def recordTaken (r : Option FrameRecord) (q : EqSide) : EqSide :=
  { q with fill := if q.fill < 31 then q.fill + 1 else q.fill, frames := (r :: q.frames).take 31 }

/-- A lane's delays after an intake. -/
def intakeTaken (x : LaneIntake) (q : EqLane) : EqLane :=
  match x with
  | some (sample, r) => shiftLane sample r q
  | none => q

theorem takeLane_get (l m : Lane) (x : LaneIntake) (s : State) : (takeLane l x s).eqLanes.get m =
    if m = l then intakeTaken x (s.eqLanes.get l) else s.eqLanes.get m := by
  rw [takeLane_eqLanes]
  rcases x with - | ⟨sample, r⟩
  · dsimp only [intakeTaken]
    split
    · next h => rw [h]
    · rfl
  · rfl

section
variable (d : Side) (a b : LaneIntake) (r : Option FrameRecord) (s : State)

theorem eqIntake_eqSides : (eqIntake d a b r s).eqSides = s.eqSides.set d (recordTaken r (s.eqSides.get d)) := by
  obtain ⟨u, hu, heq⟩ := eqIntake_eq d a b r s
  have hsides : u.eqSides = s.eqSides.set d (recordTaken r (s.eqSides.get d)) := by rw [hu]; rfl
  rw [heq]
  split
  · exact (putOut_eqSides _ _ _).1.trans hsides
  · exact hsides

theorem eqIntake_eqLanes (m : Lane) : (eqIntake d a b r s).eqLanes.get m =
    if m = firstLane d then intakeTaken a (s.eqLanes.get m) else if m = secondLane d then intakeTaken b (s.eqLanes.get m)
    else s.eqLanes.get m := by
  obtain ⟨u, hu, heq⟩ := eqIntake_eq d a b r s
  have hlanes : (eqIntake d a b r s).eqLanes = u.eqLanes := by
    rw [heq]
    split
    · exact (putOut_eqSides _ _ _).2
    · rfl
  rw [hlanes, hu]
  show (takeLane _ _ (takeLane _ _ s)).eqLanes.get m = _
  rw [takeLane_get, takeLane_get, takeLane_get]
  by_cases hfirst : m = firstLane d
  · subst hfirst
    rw [if_neg (firstLane_ne_secondLane d), if_pos rfl, if_pos rfl]
  · rw [if_neg hfirst, if_neg hfirst]
    by_cases hsecond : m = secondLane d
    · subst hsecond
      rw [if_pos rfl, if_neg (firstLane_ne_secondLane d).symm, if_pos rfl]
    · rw [if_neg hsecond, if_neg hsecond]

theorem eqIntake_eqView : (eqIntake d a b r s).eqView = s.eqView := eqIntake_keeps eqKeeps_eqView d a b r s

end

/-- What a side's equalizer takes in at one intake. -/
abbrev SideIntake := LaneIntake × LaneIntake × Option FrameRecord

/-- Intakes of a side one after another. -/
def intakes (d : Side) (xs : List SideIntake) (s : State) : State := xs.foldl (fun u x => eqIntake d x.1 x.2.1 x.2.2 u) s

section
variable (d : Side) (xs : List SideIntake) (s : State)

theorem intakes_eqSides : (intakes d xs s).eqSides.get d = xs.foldl (fun q x => recordTaken x.2.2 q) (s.eqSides.get d) := by
  induction xs generalizing s with
  | nil => rfl
  | cons x xs ih =>
    refine (ih _).trans ?_
    rw [eqIntake_eqSides, PerSide.get_set_same]
    rfl

theorem intakes_firstLane : (intakes d xs s).eqLanes.get (firstLane d) =
    (xs.map fun x => x.1).foldl (fun q x => intakeTaken x q) (s.eqLanes.get (firstLane d)) := by
  induction xs generalizing s with
  | nil => rfl
  | cons x xs ih =>
    refine (ih _).trans ?_
    rw [eqIntake_eqLanes, if_pos rfl]
    rfl

theorem intakes_secondLane : (intakes d xs s).eqLanes.get (secondLane d) =
    (xs.map fun x => x.2.1).foldl (fun q x => intakeTaken x q) (s.eqLanes.get (secondLane d)) := by
  induction xs generalizing s with
  | nil => rfl
  | cons x xs ih =>
    refine (ih _).trans ?_
    rw [eqIntake_eqLanes, if_neg (firstLane_ne_secondLane d).symm, if_pos rfl]
    rfl

theorem intakes_eqView : (intakes d xs s).eqView = s.eqView :=
  foldl_keeps State.eqView (fun u (x : SideIntake) => eqIntake d x.1 x.2.1 x.2.2 u) (fun u x => eqIntake_eqView d x.1 x.2.1 x.2.2 u) xs s

end

/-- A side's frame delay after some intakes: the newest records stand first, the fill count has grown to 31. -/
theorem recordTaken_foldl (xs : List SideIntake) (q : EqSide) (fs : List (Option FrameRecord)) (hq : q.frames = fs.take 31) :
    (xs.foldl (fun q x => recordTaken x.2.2 q) q).frames = ((xs.map fun x => x.2.2).reverse ++ fs).take 31 ∧
    (xs.foldl (fun q x => recordTaken x.2.2 q) q).fill = max q.fill (min (q.fill + xs.length) 31) ∧
    (xs.foldl (fun q x => recordTaken x.2.2 q) q).flushing = q.flushing := by
  induction xs generalizing q fs with
  | nil => exact ⟨hq, by simp, rfl⟩
  | cons x xs ih =>
    obtain ⟨hframes, hfill, hflushing⟩ := ih (recordTaken x.2.2 q) (x.2.2 :: fs) (by simp [recordTaken, hq, List.take_take])
    refine ⟨?_, ?_, hflushing⟩
    · rw [List.foldl_cons, hframes]
      simp
    · rw [List.foldl_cons, hfill, List.length_cons]
      unfold recordTaken
      dsimp only
      split <;> omega

/-- A lane's delays after some intakes that all bring a sample. -/
theorem intakeTaken_foldl {xs : List LaneIntake} (hxs : ∀ x ∈ xs, x ≠ none) (q : EqLane) (line : List Int)
    (records : List (Option LaneRecord)) (hline : q.line = line.take 63) (hrecords : q.records = records.take 63) :
    ∃ (vs : List Int) (rs : List (Option LaneRecord)), vs.length = xs.length ∧ rs.length = xs.length ∧
      xs.foldl (fun q x => intakeTaken x q) q = ⟨(vs ++ line).take 63, (rs ++ records).take 63⟩ := by
  induction xs generalizing q line records with
  | nil =>
    refine ⟨[], [], rfl, rfl, ?_⟩
    obtain ⟨⟩ := q
    cases hline
    cases hrecords
    rfl
  | cons x xs ih =>
    rcases x with - | ⟨v, r⟩
    · exact absurd rfl (hxs none List.mem_cons_self)
    · obtain ⟨vs, rs, hvs, hrs, heq⟩ := ih (fun x hx => hxs x (List.mem_cons_of_mem _ hx)) (shiftLane v r q) (v :: line) (r :: records)
        (by simp [shiftLane, hline, List.take_take]) (by simp [shiftLane, hrecords, List.take_take])
      refine ⟨vs ++ [v], rs ++ [r], by simp [hvs], by simp [hrs], ?_⟩
      rw [List.foldl_cons, List.append_assoc, List.append_assoc]
      exact heq

/-! ### The frame put out (R134, R138 to R140) -/

/-- The flags and the counts of samples clipped, which the assembler leaves. -/
def State.clipView (s : State) : BitVec 12 × Quad (BitVec 32) := (s.flags, s.counters.clippedSamples)

theorem completePartial_clipView (d : Side) (s : State) : (completePartial d s).clipView = s.clipView := by
  unfold completePartial
  split
  · rfl
  · unfold queueClean
    split <;> rfl

theorem assemble_clipView (d : Side) (f : CleanFrame) (s : State) : (assemble d f s).clipView = s.clipView := by
  unfold assemble
  dsimp only
  split
  · exact completePartial_clipView d _
  · rfl

theorem countClip_clipView (l : Lane) (f : FlagSet) (s : State) : (countClip l f s).clipView =
    (if f.clipped = true then s.flags ||| 0x800 else s.flags,
      if f.clipped = true then s.counters.clippedSamples.modify l (countUp · 1) else s.counters.clippedSamples) := by
  unfold countClip
  split <;> rfl

/-- A frame put out: the clips of its two samples. -/
theorem putOut_clips (d : Side) (r : FrameRecord) (s : State) :
    let first := (laneSlot s (s.eqSides.get d).flushing (firstLane d)).flags.clipped
    let second := (laneSlot s (s.eqSides.get d).flushing (secondLane d)).flags.clipped
    (putOut d r s).flags = (if first = true ∨ second = true then s.flags ||| 0x800 else s.flags) ∧
    ∀ l, (putOut d r s).counters.clippedSamples.get l =
      if (l = firstLane d ∧ first = true) ∨ (l = secondLane d ∧ second = true) then countUp (s.counters.clippedSamples.get l) 1
      else s.counters.clippedSamples.get l := by
  intro first second
  have hview : (putOut d r s).clipView = _ := (assemble_clipView d _ _).trans (countClip_clipView (secondLane d) _ _)
  have hfirst := countClip_clipView (firstLane d) (laneSlot s (s.eqSides.get d).flushing (firstLane d)).flags s
  simp only [State.clipView, Prod.mk.injEq] at hview hfirst
  obtain ⟨hflags, hclips⟩ := hview
  obtain ⟨hflags', hclips'⟩ := hfirst
  rw [hflags'] at hflags
  rw [hclips'] at hclips
  refine ⟨hflags.trans ?_, fun l => ?_⟩
  · show (if second = true then (if first = true then _ else _) ||| _ else if first = true then _ else _) = _
    cases first <;> cases second <;> simp [BitVec.or_assoc]
  · rw [hclips]
    show Quad.get (if second = true then Quad.modify (if first = true then _ else _) _ _ else if first = true then _ else _) l = _
    have hne := firstLane_ne_secondLane d
    cases first <;> cases second
    · simp
    · simp only [Quad.get_modify, if_true, Bool.false_eq_true, if_false, and_false, and_true, false_or]
    · simp only [Quad.get_modify, if_true, Bool.false_eq_true, if_false, and_false, and_true, or_false]
    · simp only [Quad.get_modify, if_true, and_true]
      by_cases h1 : l = firstLane d
      · subst h1
        simp [hne]
      · by_cases h2 : l = secondLane d
        · subst h2
          simp [hne.symm]
        · simp [h1, h2]

/-- An intake at which a record leaves puts its frame out of a state with the same assembler and counts. -/
theorem eqIntake_of_leaving {d : Side} {r : FrameRecord} {s : State} (h : leaving (s.eqSides.get d) = some r) (a b : LaneIntake)
    (x : Option FrameRecord) : ∃ u : State, eqIntake d a b x s = putOut d r u ∧ (∀ e, cleanOut e u = cleanOut e s) ∧
      u.clipView = s.clipView ∧ u.eqView = s.eqView ∧ (u.eqSides.get d).flushing = (s.eqSides.get d).flushing := by
  obtain ⟨u, hu, heq⟩ := eqIntake_eq d a b x s
  rw [h] at heq
  have htake (l : Lane) (y : LaneIntake) (t : State) : (takeLane l y t).eqView = t.eqView ∧ (takeLane l y t).clipView = t.clipView ∧
      ∀ e, cleanOut e (takeLane l y t) = cleanOut e t := by
    cases y <;> exact ⟨rfl, rfl, fun _ => rfl⟩
  obtain ⟨hviewA, hclipA, houtA⟩ := htake (firstLane d) a s
  obtain ⟨hviewB, hclipB, houtB⟩ := htake (secondLane d) b (takeLane (firstLane d) a s)
  refine ⟨u, heq, fun e => ?_, ?_, ?_, ?_⟩
  · rw [hu]; exact (houtB e).trans (houtA e)
  · rw [hu]; exact hclipB.trans hclipA
  · rw [hu]; exact hviewB.trans hviewA
  · rw [hu]
    show ((s.eqSides.set d _).get d).flushing = _
    rw [PerSide.get_set_same]

/-- One side's assembler and queue changed, and the other's not. -/
theorem fields_of_cleanOut {d : Side} {o : CleanOut} {s t : State} (h : ∀ e, cleanOut e t = if e = d then o else cleanOut e s) :
    t.partials = s.partials.set d o.frames ∧ t.cleanQueues = s.cleanQueues.set d o.queue ∧
    t.counters.cleanDiscarded = s.counters.cleanDiscarded.set d o.lost := by
  refine ⟨PerSide.ext_get fun e => ?_, PerSide.ext_get fun e => ?_, PerSide.ext_get fun e => ?_⟩
  · rw [PerSide.get_set]
    refine (congrArg CleanOut.frames (h e)).trans ?_
    split <;> rfl
  · rw [PerSide.get_set]
    refine (congrArg CleanOut.queue (h e)).trans ?_
    split <;> rfl
  · rw [PerSide.get_set]
    refine (congrArg CleanOut.lost (h e)).trans ?_
    split <;> rfl

theorem PerSide.set_get {α : Type} (x : PerSide α) (d : Side) : x.set d (x.get d) = x := by
  cases d <;> rfl

/-- The record that leaves at an intake is the one taken in 31 intakes earlier. -/
theorem leaving_intakes {d : Side} {xs : List SideIntake} (hlen : xs.length = 30) (a b : LaneIntake) (r : FrameRecord) (s : State) :
    leaving ((intakes d xs (eqIntake d a b (some r) s)).eqSides.get d) = some r ∧
    ((intakes d xs (eqIntake d a b (some r) s)).eqSides.get d).flushing = (s.eqSides.get d).flushing := by
  obtain ⟨hframes, hfill, hflushing⟩ := recordTaken_foldl xs (recordTaken (some r) (s.eqSides.get d)) (some r :: (s.eqSides.get d).frames) rfl
  rw [intakes_eqSides, eqIntake_eqSides, PerSide.get_set_same]
  refine ⟨?_, hflushing⟩
  have hfull : ¬ (xs.foldl (fun q x => recordTaken x.2.2 q) (recordTaken (some r) (s.eqSides.get d))).fill < 31 := by
    rw [hfill, hlen]
    unfold recordTaken
    dsimp only
    split <;> omega
  rw [leaving, if_neg hfull, hframes, List.getElem?_take_of_lt (by decide), List.getElem?_append_right (by simp [hlen])]
  simp [hlen]

/-- The centre of a lane's delays is the sample taken in 31 intakes earlier, with its record. -/
theorem centre_of_later {later : List LaneIntake} (hlen : later.length = 31) (hsome : ∀ y ∈ later, y ≠ none) (sample : Int)
    (record : LaneRecord) (q : EqLane) :
    let q' := later.foldl (fun q x => intakeTaken x q) (intakeTaken (some (sample, some record)) q)
    q'.line[31]? = some sample ∧ centreRecord q' = some record := by
  obtain ⟨vs, rs, hvs, hrs, heq⟩ := intakeTaken_foldl hsome (intakeTaken (some (sample, some record)) q) (sample :: q.line)
    (some record :: q.records) rfl rfl
  intro q'
  rw [show q' = _ from heq]
  constructor
  · dsimp only
    rw [List.getElem?_take_of_lt (by decide), List.getElem?_append_right (by omega), hvs, hlen]
    rfl
  · rw [centreRecord]
    dsimp only
    rw [List.getElem?_take_of_lt (by decide), List.getElem?_append_right (by omega), hrs, hlen]
    rfl

/-- The sample put out for a lane: of a lane in use that has brought a sample at every intake, its own. -/
theorem slotOf_centred {q' : EqLane} {later : List LaneIntake} {x : LaneIntake} {q : EqLane} (hlen : later.length = 31)
    (hq : q' = later.foldl (fun q x => intakeTaken x q) (intakeTaken x q)) (used : Bool) (sets : Quad (List Int)) (tail : Bool) :
    (used = false → slotOf used sets tail q' = ⟨0, FlagSet.laneOffOnly⟩) ∧
    ∀ sample record, used = true → x = some (sample, some record) → (∀ y ∈ later, y ≠ none) →
      q'.line[31]? = some sample ∧ slotOf used sets tail q' = laneOutput sets tail q' record := by
  refine ⟨fun hused => ?_, fun sample record hused hx hsome => ?_⟩
  · rw [hused]
    rfl
  · subst hx
    obtain ⟨hline, hcentre⟩ := centre_of_later hlen hsome sample record q
    rw [← hq] at hline hcentre
    refine ⟨hline, ?_⟩
    rw [slotOf, hused, if_pos rfl, hcentre]

/-- 31 intakes after a frame was taken in, it is put out. -/
theorem intakes_put_out {d : Side} {more : List SideIntake} (hmore : more.length = 31) (a b : LaneIntake) (r : FrameRecord) (s : State) :
    ∃ u : State, intakes d more (eqIntake d a b (some r) s) = putOut d r u ∧
      (∀ e, cleanOut e u = cleanOut e (intakes d (more.take 30) (eqIntake d a b (some r) s))) ∧
      u.clipView = (intakes d (more.take 30) (eqIntake d a b (some r) s)).clipView ∧ u.eqView = s.eqView ∧
      (u.eqSides.get d).flushing = (s.eqSides.get d).flushing := by
  have hlast : more = more.take 30 ++ [more[30]] := by
    rw [← List.take_succ_eq_append_getElem (by omega), List.take_of_length_le (by omega)]
  obtain ⟨hleaving, hflushing⟩ := leaving_intakes (xs := more.take 30) (d := d) (by simp [hmore]) a b r s
  obtain ⟨u, heq, hout, hclip, hview, htail⟩ := eqIntake_of_leaving hleaving more[30].1 more[30].2.1 more[30].2.2
  refine ⟨u, ?_, hout, hclip, hview.trans ((intakes_eqView d _ _).trans (eqIntake_eqView d a b (some r) s)), htail.trans hflushing⟩
  rw [← heq]
  conv_lhs => rw [hlast]
  exact List.foldl_append

/-- The assembler and the queue of a side after a frame has joined (R138 to R140). -/
theorem fields_of_join {d : Side} {port : LinkState} {mk : List CleanFrame → CleanParcel} {f : CleanFrame} {s t : State}
    (h : ∀ e, cleanOut e t = if e = d then (cleanOut d s).join port mk f else cleanOut e s) :
    ((s.partials.get d ++ [f]).length < 16 → t.partials = s.partials.set d (s.partials.get d ++ [f]) ∧ t.cleanQueues = s.cleanQueues) ∧
    ((s.partials.get d ++ [f]).length = 16 → t.partials = s.partials.set d [] ∧
      (port = .up → (s.cleanQueues.get d).length < 4 →
        t.cleanQueues = s.cleanQueues.set d (s.cleanQueues.get d ++ [mk (s.partials.get d ++ [f])]) ∧
        t.counters.cleanDiscarded = s.counters.cleanDiscarded) ∧
      (port = .down ∨ 4 ≤ (s.cleanQueues.get d).length → t.cleanQueues = s.cleanQueues ∧
        t.counters.cleanDiscarded = s.counters.cleanDiscarded.set d (countUp (s.counters.cleanDiscarded.get d) 1))) := by
  obtain ⟨hpartials, hqueues, hlost⟩ := fields_of_cleanOut h
  refine ⟨fun hshort => ?_, fun hfull => ?_⟩
  · have hjoin : (cleanOut d s).join port mk f = { cleanOut d s with frames := (cleanOut d s).frames ++ [f] } := if_neg hshort.not_ge
    rw [hjoin] at hpartials hqueues
    exact ⟨hpartials, hqueues.trans (PerSide.set_get _ _)⟩
  · have hjoin : (cleanOut d s).join port mk f =
        ({ cleanOut d s with frames := [] } : CleanOut).push port (mk (s.partials.get d ++ [f])) :=
      (if_pos hfull.ge).trans (if_neg (by simp))
    refine ⟨?_, fun hup hroom => ?_, fun hno => ?_⟩
    · rw [hpartials, hjoin]
      unfold CleanOut.push
      split <;> rfl
    · have hpush : (cleanOut d s).join port mk f =
          ⟨[], s.cleanQueues.get d ++ [mk (s.partials.get d ++ [f])], s.counters.cleanDiscarded.get d⟩ := hjoin.trans (if_pos ⟨hup, hroom⟩)
      rw [hpush] at hqueues hlost
      exact ⟨hqueues, hlost.trans (PerSide.set_get _ _)⟩
    · have hpush : (cleanOut d s).join port mk f =
          ⟨[], s.cleanQueues.get d, countUp (s.counters.cleanDiscarded.get d) 1⟩ := by
        refine hjoin.trans (if_neg ?_)
        rintro ⟨hup, hroom⟩
        obtain hdown | hfull := hno
        · rw [hdown] at hup; cases hup
        · exact absurd hroom (Nat.not_lt.mpr hfull)
      rw [hpush] at hqueues hlost
      exact ⟨hqueues.trans (PerSide.set_get _ _), hlost⟩

/-- Settles O50: the filter as a sum over its taps, the intake below a fill count of 31, the frame put out 31 intakes after it
was taken in, and its clips. -/
theorem equalizerSumsItsSymmetricTaps : Obligations.EqualizerSumsItsSymmetricTaps := by
  unfold Obligations.EqualizerSumsItsSymmetricTaps
  refine ⟨fun h delay hlen hdelay => ?filter, fun d a b r s hfill => ?filling, fun d a b r more s hmore => ?delayed,
    fun sets tail q r => ?clips⟩
  case filter =>
    have hsum := tapSum_eq hlen hdelay
    refine ⟨?_, ?_, filterRaw_flatEq hdelay⟩
    · rw [← hsum, filterRaw]
      omega
    · rw [← hsum, filterRaw]
      omega
  case filling =>
    obtain ⟨u, hu, heq⟩ := eqIntake_eq d a b r s
    have hnone : leaving (s.eqSides.get d) = none := if_pos hfill
    rw [hnone] at heq
    have hsides := eqIntake_eqSides d a b r s
    refine ⟨?_, ?_⟩
    · rw [hsides, PerSide.get_set_same, recordTaken]
      exact if_pos hfill
    · rw [heq, hu]
      cases a <;> cases b <;> exact ⟨rfl, rfl, rfl, rfl⟩
  case delayed =>
    intro take before after centred _
    obtain ⟨u, hput, hout, hclip, hview, htail⟩ := intakes_put_out (d := d) hmore a b r s
    replace hput : after = putOut d r u := hput
    replace hout : ∀ e, cleanOut e u = cleanOut e before := hout
    replace hclip : u.clipView = before.clipView := hclip
    have hjoined (e : Side) := cleanOut_putOut d e r u
    obtain ⟨hflags, hcounts⟩ := putOut_clips d r u
    have hfirst := laneSlot_eq u (u.eqSides.get d).flushing (firstLane d)
    have hsecond := laneSlot_eq u (u.eqSides.get d).flushing (secondLane d)
    rw [← (putOut_eqSides d r u).2, ← hput] at hfirst hsecond
    simp only [hout, ← hput, parcelOfFrames_of_view hview, show u.link = s.link from congrArg Prod.fst hview] at hjoined
    rw [← hput] at hflags hcounts
    simp only [State.clipView, Prod.mk.injEq] at hclip
    obtain ⟨hclip, hclips⟩ := hclip
    rw [hclip] at hflags
    rw [hclips] at hcounts
    simp only [State.eqView, Prod.mk.injEq] at hview
    obtain ⟨-, hintake, -, hsets⟩ := hview
    rw [inUse, hintake, hsets, htail] at hfirst hsecond
    rw [htail] at hjoined hflags hcounts
    generalize laneSlot u (s.eqSides.get d).flushing (firstLane d) = first at hfirst hjoined hflags hcounts
    generalize laneSlot u (s.eqSides.get d).flushing (secondLane d) = second at hsecond hjoined hflags hcounts
    obtain ⟨hshort, hfull⟩ := fields_of_join hjoined
    refine ⟨first, second, hshort, hfull, fun l => ?counted, ?raised, ?first, ?second⟩
    case counted => exact (hcounts l).trans (if_congr Iff.rfl rfl rfl)
    case raised =>
      refine hflags.trans (if_congr ?_ rfl rfl)
      constructor
      · rintro (h | h)
        · exact ⟨firstLane d, Or.inl ⟨rfl, h⟩⟩
        · exact ⟨secondLane d, Or.inr ⟨rfl, h⟩⟩
      · rintro ⟨l, ⟨-, h⟩ | ⟨-, h⟩⟩
        · exact Or.inl h
        · exact Or.inr h
    case first =>
      have htaken := intakes_firstLane d more (eqIntake d a b (some r) s)
      rw [eqIntake_eqLanes, if_pos rfl] at htaken
      have hcentred := slotOf_centred (by rw [List.length_map, hmore]) htaken (s.intake.applied.laneEnable.get (firstLane d)) s.eqSets
        (s.eqSides.get d).flushing
      rw [hfirst]
      exact hcentred
    case second =>
      have htaken := intakes_secondLane d more (eqIntake d a b (some r) s)
      rw [eqIntake_eqLanes, if_neg (firstLane_ne_secondLane d).symm, if_pos rfl] at htaken
      have hcentred := slotOf_centred (by rw [List.length_map, hmore]) htaken (s.intake.applied.laneEnable.get (secondLane d)) s.eqSets
        (s.eqSides.get d).flushing
      rw [hsecond]
      exact hcentred
  case clips =>
    refine ⟨_, rfl, ?_⟩
    rw [Bool.or_eq_true, Bool.or_eq_true, saturate_bne, saturate_bne, decide_eq_true_iff, decide_eq_true_iff, or_assoc, or_assoc]
    rfl

end Sys2Proof.Machine
end

section
/-! The walkers' active sets (R115 to R119) and the values in force (R82, R94, R122, R123, R132). -/

namespace Sys2Proof.Machine

/-! ### Ids in active sets -/

theorem mem_addActive (a : Quad (List Nat)) (ls : List Lane) (id i : Nat) (l : Lane) :
    i ∈ (addActive a ls id).get l ↔ i ∈ a.get l ∨ (l ∈ ls ∧ i = id) := by
  unfold addActive
  induction ls generalizing a with
  | nil => simp
  | cons m ls ih =>
    rw [List.foldl_cons, ih, Quad.get_modify]
    by_cases hm : l = m
    · subst hm
      simp only [if_true, List.mem_append, List.mem_singleton, List.mem_cons_self, true_and]
      tauto
    · simp only [hm, if_false, List.mem_cons, false_or]

theorem mem_dropActive (a : Quad (List Nat)) (id i : Nat) (l : Lane) :
    i ∈ (dropActive a id).get l ↔ i ∈ a.get l ∧ i ≠ id := by
  unfold dropActive
  rw [Quad.get_tabulate, List.mem_filter, bne_iff_ne]

theorem isActive_iff (a : Quad (List Nat)) (id : Nat) : isActive a id = true ↔ ∃ l, id ∈ a.get l := by
  unfold isActive
  rw [List.any_eq_true]
  constructor
  · rintro ⟨l, -, hl⟩
    exact ⟨l, by simpa using hl⟩
  · rintro ⟨l, hl⟩
    exact ⟨l, by fin_cases l <;> decide, by simpa using hl⟩

/-- Some entries end, and then some activate, each on its lanes. -/
def activeMoved (lanes : MapEntry → List Lane) (ending starting : List MapEntry) (a : Quad (List Nat)) : Quad (List Nat) :=
  starting.foldl (fun a e => addActive a (lanes e) e.id) (ending.foldl (fun a e => dropActive a e.id) a)

theorem mem_ended (ending : List MapEntry) (a : Quad (List Nat)) (i : Nat) (l : Lane) :
    i ∈ (ending.foldl (fun a e => dropActive a e.id) a).get l ↔ i ∈ a.get l ∧ ∀ e ∈ ending, i ≠ e.id := by
  induction ending generalizing a with
  | nil => simp
  | cons e es ih => rw [List.foldl_cons, ih, mem_dropActive, List.forall_mem_cons, and_assoc]

theorem mem_started (lanes : MapEntry → List Lane) (starting : List MapEntry) (a : Quad (List Nat)) (i : Nat) (l : Lane) :
    i ∈ (starting.foldl (fun a e => addActive a (lanes e) e.id) a).get l ↔
      i ∈ a.get l ∨ ∃ e ∈ starting, l ∈ lanes e ∧ i = e.id := by
  induction starting generalizing a with
  | nil => simp
  | cons e es ih => simp only [List.foldl_cons, ih, mem_addActive, List.mem_cons, exists_eq_or_imp, or_assoc]

/-! ### Exactness (R115 to R119) -/

/-- The active sets are the selected entries that cover a position, on the lanes they are selected on. -/
def ActiveExact (selected : MapEntry → Lane → Prop) (es : List MapEntry) (a : Quad (List Nat)) (x : Nat) : Prop :=
  ∀ (l : Lane) (i : Nat), i ∈ a.get l ↔ ∃ e ∈ es, e.id = i ∧ selected e l ∧ e.start ≤ x ∧ x < e.stop

theorem entry_eq_of_id {es : List MapEntry} (hids : (es.map (·.id)).Nodup) {e f : MapEntry} (he : e ∈ es) (hf : f ∈ es)
    (h : e.id = f.id) : e = f := List.inj_on_of_nodup_map hids he hf h

section
variable {selected : MapEntry → Lane → Prop} {considered : MapEntry → Bool} {lanes : MapEntry → List Lane} {es : List MapEntry}
  (hselected : ∀ e l, selected e l ↔ considered e = true ∧ l ∈ lanes e)
include hselected

/-- A seek makes the active sets exact. -/
theorem activeExact_seek (p : Nat) : ActiveExact selected es
    ((es.filter fun e => considered e && decide (e.start ≤ p) && decide (p < e.stop)).foldl
      (fun a e => addActive a (lanes e) e.id) (Quad.fill [])) p := by
  intro l i
  rw [mem_started, Quad.get_fill]
  simp only [List.not_mem_nil, false_or, List.mem_filter, Bool.and_eq_true, decide_eq_true_eq, hselected]
  constructor
  · rintro ⟨e, ⟨he, ⟨hc, hstart⟩, hstop⟩, hl, rfl⟩
    exact ⟨e, he, rfl, ⟨hc, hl⟩, hstart, hstop⟩
  · rintro ⟨e, he, rfl, ⟨hc, hl⟩, hstart, hstop⟩
    exact ⟨e, ⟨he, ⟨hc, hstart⟩, hstop⟩, hl, rfl⟩

/-- A move to the next position keeps them exact: the entries that end there leave, those that start there join. -/
theorem activeExact_move (hids : (es.map (·.id)).Nodup) (hpos : ∀ e ∈ es, e.start < e.stop) {a : Quad (List Nat)} {x : Nat}
    (h : ActiveExact selected es a x) :
    ActiveExact selected es (activeMoved lanes (es.filter fun e => e.stop == x + 1 && isActive a e.id)
      (es.filter fun e => considered e && e.start == x + 1) a) (x + 1) := by
  intro l i
  rw [activeMoved, mem_started, mem_ended]
  simp only [List.mem_filter, Bool.and_eq_true, beq_iff_eq]
  constructor
  · rintro (⟨hi, hkept⟩ | ⟨e, ⟨he, hc, hstart⟩, hl, rfl⟩)
    · obtain ⟨e, he, rfl, hsel, hstart, hstop⟩ := (h l i).mp hi
      have hnot : e.stop ≠ x + 1 := fun heq => hkept e ⟨he, heq, (isActive_iff a e.id).mpr ⟨l, hi⟩⟩ rfl
      exact ⟨e, he, rfl, hsel, by omega, by omega⟩
    · exact ⟨e, he, rfl, (hselected e l).mpr ⟨hc, hl⟩, hstart.le, hstart ▸ hpos e he⟩
  · rintro ⟨e, he, rfl, hsel, hstart, hstop⟩
    obtain hlt | heq := Nat.lt_or_eq_of_le hstart
    · refine Or.inl ⟨(h l e.id).mpr ⟨e, he, rfl, hsel, Nat.lt_succ_iff.mp hlt, by omega⟩, ?_⟩
      rintro f ⟨hf, hfstop, -⟩ hid
      rw [entry_eq_of_id hids he hf hid] at hstop
      omega
    · obtain ⟨hc, hl⟩ := (hselected e l).mp hsel
      exact Or.inr ⟨e, ⟨he, hc, heq⟩, hl, rfl⟩

end

/-! ### The intake walker (R117, R119) -/

/-- The lanes an entry is a THRESHOLD entry of. -/
def onIntake (e : MapEntry) (l : Lane) : Prop := e.cls = .threshold ∧ e.hasLane l = true

theorem onIntake_iff (e : MapEntry) (l : Lane) : onIntake e l ↔ consideredByIntake e = true ∧ l ∈ lanesOfEntry e := by
  have hl : l ∈ allLanes := by fin_cases l <;> decide
  simp [onIntake, consideredByIntake, lanesOfEntry, hl]

theorem intakeFold_active (es : List MapEntry) (w : Walker) :
    (es.foldl activateIntake w).active = es.foldl (fun a e => addActive a (lanesOfEntry e) e.id) w.active ∧
    (es.foldl activateIntake w).running = w.running ∧ (es.foldl activateIntake w).cursor = w.cursor := by
  induction es generalizing w with
  | nil => exact ⟨rfl, rfl, rfl⟩
  | cons e es ih => exact ih (activateIntake w e)

theorem endFold_active (es : List MapEntry) (w : Walker) :
    (es.foldl endIntake w).active = es.foldl (fun a e => dropActive a e.id) w.active := by
  induction es generalizing w with
  | nil => rfl
  | cons e es ih => exact ih (endIntake w e)

theorem intakeSeek_exact (es : List MapEntry) (p : Nat) (w : Walker) :
    ActiveExact onIntake es (intakeSeek es p w).active p ∧ (intakeSeek es p w).cursor = p := by
  unfold intakeSeek
  dsimp only
  obtain ⟨hactive, -, hcursor⟩ := intakeFold_active (es.filter fun e => consideredByIntake e && decide (e.start ≤ p) && decide (p < e.stop))
    { w with cursor := p, running := true, active := Quad.fill [], next := nextConsidered es consideredByIntake p }
  rw [hactive, hcursor]
  exact ⟨activeExact_seek onIntake_iff p, rfl⟩

theorem intakeWalk_exact {es : List MapEntry} (hids : (es.map (·.id)).Nodup) (hpos : ∀ e ∈ es, e.start < e.stop) {w : Walker}
    (hrun : w.running = true) (h : ActiveExact onIntake es w.active w.cursor) :
    ActiveExact onIntake es (intakeWalk es (w.cursor + 1) w).active (w.cursor + 1) ∧
    (intakeWalk es (w.cursor + 1) w).cursor = w.cursor + 1 := by
  have hmove : ¬ (!w.running || w.cursor == w.cursor + 1) = true := by simp [hrun]
  unfold intakeWalk
  rw [if_neg hmove]
  dsimp only
  refine ⟨?_, rfl⟩
  rw [(intakeFold_active _ _).1, endFold_active]
  exact activeExact_move onIntake_iff hids hpos h

/-! ### The values in force (R82, R94, R122, R123, R132) -/

theorem activeOf_of_only {es : List MapEntry} {c : MapClass} {ids : List Nat} {e : MapEntry} (he : e ∈ es) (hc : e.cls = c)
    (hid : e.id ∈ ids) (honly : ∀ f ∈ es, f.cls = c → f.id ∈ ids → f = e) : activeOf es c ids = some e := by
  unfold activeOf
  cases hfind : es.find? fun e => e.cls == c && ids.contains e.id with
  | none =>
    have := List.find?_eq_none.mp hfind e he
    simp [hc, hid] at this
  | some f =>
    have hf := List.find?_some hfind
    simp only [Bool.and_eq_true, beq_iff_eq, List.contains_iff_mem] at hf
    rw [honly f (List.mem_of_find?_eq_some hfind) hf.1 hf.2]

theorem activeOf_of_none {es : List MapEntry} {c : MapClass} {ids : List Nat} (h : ∀ e ∈ es, e.cls = c → e.id ∉ ids) :
    activeOf es c ids = none := by
  refine List.find?_eq_none.mpr fun e he => ?_
  simp only [Bool.and_eq_true, beq_iff_eq, List.contains_iff_mem, not_and]
  exact h e he

/-- An entry of the map stands in an exact active set when it is selected there and covers the position. -/
theorem ActiveExact.mem_iff {selected : MapEntry → Lane → Prop} {es : List MapEntry} {a : Quad (List Nat)} {x : Nat}
    (h : ActiveExact selected es a x) (hids : (es.map (·.id)).Nodup) {e : MapEntry} (he : e ∈ es) (l : Lane) :
    e.id ∈ a.get l ↔ selected e l ∧ e.start ≤ x ∧ x < e.stop := by
  rw [h l e.id]
  constructor
  · rintro ⟨f, hf, hid, hf'⟩
    rwa [entry_eq_of_id hids hf he hid] at hf'
  · exact fun h' => ⟨e, he, rfl, h'⟩

end Sys2Proof.Machine
end

section
/-! The walker of a side (R50 to R53, R118 to R120, R124): what its edges do, and what its moves leave. -/

namespace Sys2Proof.Machine

/-! ### The entries of a side (R116) -/

/-- The lanes of a side that an output entry is of. -/
def onSide (d : Side) (e : MapEntry) (l : Lane) : Prop := sideOf l = d ∧ e.cls ≠ .threshold ∧ e.hasLane l = true

theorem mem_lanesOnSide (d : Side) (e : MapEntry) (l : Lane) : l ∈ lanesOnSide d e ↔ sideOf l = d ∧ e.hasLane l = true := by
  unfold lanesOnSide lanesOf
  rw [List.mem_filter, sideOf_eq_iff]
  simp

theorem onSide_iff (d : Side) (e : MapEntry) (l : Lane) : onSide d e l ↔ walkedOn d e = true ∧ l ∈ lanesOnSide d e := by
  rw [mem_lanesOnSide, onSide, sideOf_eq_iff]
  unfold walkedOn MapEntry.hasLane
  simp only [Bool.and_eq_true, bne_iff_ne, Bool.or_eq_true]
  constructor
  · rintro ⟨rfl | rfl, hc, hl⟩
    · exact ⟨⟨hc, Or.inl hl⟩, Or.inl rfl, hl⟩
    · exact ⟨⟨hc, Or.inr hl⟩, Or.inr rfl, hl⟩
  · rintro ⟨⟨hc, -⟩, hside, hl⟩
    exact ⟨hside, hc, hl⟩

theorem walkedOn_of_onSide {d : Side} {e : MapEntry} {l : Lane} (h : onSide d e l) : walkedOn d e = true := ((onSide_iff d e l).mp h).1

/-- A considered entry is an output entry of some lane of the side. -/
theorem exists_onSide {d : Side} {e : MapEntry} (h : walkedOn d e = true) : ∃ l, onSide d e l := by
  unfold walkedOn at h
  simp only [Bool.and_eq_true, bne_iff_ne, Bool.or_eq_true] at h
  obtain ⟨hc, hl | hl⟩ := h
  · exact ⟨firstLane d, sideOf_firstLane d, hc, hl⟩
  · exact ⟨secondLane d, sideOf_secondLane d, hc, hl⟩

theorem sideWalkerExact_iff (d : Side) (es : List MapEntry) (w : Walker) :
    SideWalkerExact d es w ↔ ActiveExact (onSide d) es w.active w.cursor := by
  unfold SideWalkerExact ActiveExact onSide MapEntry.covers
  simp only [Bool.and_eq_true, decide_eq_true_eq]
  refine forall_congr' fun l => forall_congr' fun i => iff_congr Iff.rfl ?_
  constructor
  · rintro ⟨hside, e, he, hid, hc, ⟨hl, hstart⟩, hstop⟩
    exact ⟨e, he, hid, ⟨hside, hc, hl⟩, hstart, hstop⟩
  · rintro ⟨e, he, hid, ⟨hside, hc, hl⟩, hstart, hstop⟩
    exact ⟨hside, e, he, hid, hc, ⟨hl, hstart⟩, hstop⟩

/-- With exact active sets, the entries that end at the next position are those that are active and end there. -/
theorem ending_eq {d : Side} {es : List MapEntry} {a : Quad (List Nat)} {x : Nat} (hids : (es.map (·.id)).Nodup)
    (hpos : ∀ e ∈ es, e.start < e.stop) (h : ActiveExact (onSide d) es a x) :
    (es.filter fun e => e.stop == x + 1 && isActive a e.id) = es.filter fun e => walkedOn d e && e.stop == x + 1 := by
  refine List.filter_congr fun e he => ?_
  rw [Bool.eq_iff_iff, Bool.and_eq_true, Bool.and_eq_true, beq_iff_eq, isActive_iff]
  constructor
  · rintro ⟨hstop, l, hl⟩
    exact ⟨walkedOn_of_onSide ((h.mem_iff hids he l).mp hl).1, hstop⟩
  · rintro ⟨hwalked, hstop⟩
    obtain ⟨l, hl⟩ := exists_onSide hwalked
    have := hpos e he
    exact ⟨hstop, l, (h.mem_iff hids he l).mpr ⟨hl, by omega, by omega⟩⟩

/-! ### Edges taken one after another (R52, R118, R124) -/

/-- What edges leave, with the walker as some walk left it. -/
def edgesMade (d : Side) (edges : List Edge) (cues : List Cue) (w : Walker) (s : State) : State :=
  { s with
    map := { s.map with sideWalker := s.map.sideWalker.set d w }
    trackers := s.trackers.set d (edges.foldl edgeOnTracker (s.trackers.get d))
    cues := (s.cues ++ cues).take 16
    counters := { s.counters with cuesDropped := countUp s.counters.cuesDropped (s.cues.length + cues.length - 16) } }

theorem edgesTaken_iff (d : Side) (edges : List Edge) (cues : List Cue) (s t : State) :
    EdgesTaken d edges cues s t ↔ ∃ w, t = edgesMade d edges cues w s := by
  constructor
  · exact fun h => ⟨_, h⟩
  · rintro ⟨w, rfl⟩
    have hw : (edgesMade d edges cues w s).map.sideWalker.get d = w := PerSide.get_set_same _ _ _
    rw [EdgesTaken, hw]
    rfl

theorem PerSide.set_set {α : Type} (x : PerSide α) (d : Side) (v w : α) : (x.set d v).set d w = x.set d w := by
  cases d <;> rfl

theorem take_append_take {α : Type} (n : Nat) (xs ys : List α) : ((xs.take n) ++ ys).take n = (xs ++ ys).take n := by
  rw [List.take_append, List.take_append, List.take_take, Nat.min_self, List.length_take]
  congr 2
  omega

/-- Edges after edges. -/
theorem edgesMade_edgesMade (d : Side) (edges edges' : List Edge) (cues cues' : List Cue) (w w' : Walker) (s : State) :
    edgesMade d edges' cues' w' (edgesMade d edges cues w s) = edgesMade d (edges ++ edges') (cues ++ cues') w' s := by
  have hcount : s.cues.length + cues.length - 16 + (((s.cues ++ cues).take 16).length + cues'.length - 16) =
      s.cues.length + (cues ++ cues').length - 16 := by
    rw [List.length_take, List.length_append, List.length_append]
    omega
  unfold edgesMade
  dsimp only
  rw [PerSide.set_set, PerSide.set_set, PerSide.get_set_same, ← List.foldl_append, take_append_take, List.append_assoc, countUp_countUp,
    hcount]

theorem EdgesTaken.trans {d : Side} {edges edges' : List Edge} {cues cues' : List Cue} {s t u : State}
    (h : EdgesTaken d edges cues s t) (h' : EdgesTaken d edges' cues' t u) : EdgesTaken d (edges ++ edges') (cues ++ cues') s u := by
  obtain ⟨w, rfl⟩ := (edgesTaken_iff _ _ _ _ _).mp h
  obtain ⟨w', rfl⟩ := (edgesTaken_iff _ _ _ _ _).mp h'
  rw [edgesMade_edgesMade]
  exact (edgesTaken_iff _ _ _ _ _).mpr ⟨w', rfl⟩

/-- No edge: the walker alone may change. -/
theorem edgesTaken_walker (d : Side) (f : Walker → Walker) {s : State} (h : s.cues.length ≤ 16) : EdgesTaken d [] [] s (withSideWalker d f s) := by
  refine (edgesTaken_iff _ _ _ _ _).mpr ⟨f (s.map.sideWalker.get d), ?_⟩
  unfold edgesMade
  rw [List.foldl_nil, PerSide.set_get, List.append_nil, List.take_of_length_le h, List.length_nil, Nat.add_zero,
    Nat.sub_eq_zero_of_le h, countUp_zero]
  rfl

theorem edgesTaken_refl (d : Side) {s : State} (h : s.cues.length ≤ 16) : EdgesTaken d [] [] s s := by
  have hwalker := edgesTaken_walker d id h
  have hsame : withSideWalker d id s = s := by
    unfold withSideWalker PerSide.modify
    rw [id, PerSide.set_get]
  rwa [hsame] at hwalker

/-- What edges leave of the rest. -/
theorem EdgesTaken.keeps {d : Side} {edges : List Edge} {cues : List Cue} {s t : State} (h : EdgesTaken d edges cues s t) :
    t.map.entries = s.map.entries ∧ t.resamplers = s.resamplers ∧ t.cues.length ≤ 16 := by
  obtain ⟨w, rfl⟩ := (edgesTaken_iff _ _ _ _ _).mp h
  exact ⟨rfl, rfl, List.length_take_le _ _⟩

theorem EdgesTaken.withWalker {d : Side} {edges : List Edge} {cues : List Cue} {s t : State} (h : EdgesTaken d edges cues s t)
    (f : Walker → Walker) : EdgesTaken d edges cues s (withSideWalker d f t) := by
  obtain ⟨-, -, hlen⟩ := h.keeps
  have hboth := h.trans (edgesTaken_walker d f hlen)
  rwa [List.append_nil, List.append_nil] at hboth

/-! ### One edge (R50 to R52, R124) -/

theorem edgesTaken_tracker {d : Side} {x : Edge} {f : Tracker → Tracker} {s : State} (hf : ∀ t, f t = edgeOnTracker t x)
    (h : s.cues.length ≤ 16) : EdgesTaken d [x] [] s (withTracker d f s) := by
  refine (edgesTaken_iff _ _ _ _ _).mpr ⟨s.map.sideWalker.get d, ?_⟩
  unfold edgesMade
  rw [List.foldl_cons, List.foldl_nil, ← hf, PerSide.set_get, List.append_nil, List.take_of_length_le h, List.length_nil, Nat.add_zero,
    Nat.sub_eq_zero_of_le h, countUp_zero]
  rfl

theorem edgesTaken_cue {d : Side} {x : Edge} (c : Cue) {s : State} (hx : ∀ t, edgeOnTracker t x = t) (h : s.cues.length ≤ 16) :
    EdgesTaken d [x] [c] s (appendCue c s) := by
  refine (edgesTaken_iff _ _ _ _ _).mpr ⟨s.map.sideWalker.get d, ?_⟩
  unfold edgesMade appendCue
  rw [List.foldl_cons, List.foldl_nil, hx, PerSide.set_get, PerSide.set_get, List.length_singleton]
  split
  · next hroom =>
    rw [List.take_of_length_le (by simp; omega), Nat.sub_eq_zero_of_le (by omega), countUp_zero]
  · next hfull =>
    rw [List.take_append_of_le_length (by omega), List.take_of_length_le h, show s.cues.length + 1 - 16 = 1 by omega]
    rfl

theorem edgeOnTracker_of_ne {x : Edge} (h : x.1.cls ≠ .timebase) (t : Tracker) : edgeOnTracker t x = t := if_pos h

theorem forceTracker_eq {e : MapEntry} (h : e.cls = .timebase) (t : Tracker) : forceTracker e t = edgeOnTracker t (e, false) := by
  unfold forceTracker edgeOnTracker
  simp [h]

theorem unforceTracker_eq {e : MapEntry} (h : e.cls = .timebase) (t : Tracker) : unforceTracker e t = edgeOnTracker t (e, true) := by
  unfold unforceTracker edgeOnTracker
  cases t.force <;> simp [h]

/-- No force and no cue: the walker alone. -/
theorem edgesTaken_quiet {d : Side} {x : Edge} (f : Walker → Walker) {s : State} (hx : x.1.cls ≠ .timebase) (h : s.cues.length ≤ 16) :
    EdgesTaken d [x] [] s (withSideWalker d f s) := by
  refine (edgesTaken_iff _ _ _ _ _).mpr ⟨f (s.map.sideWalker.get d), ?_⟩
  unfold edgesMade
  rw [List.foldl_cons, List.foldl_nil, edgeOnTracker_of_ne hx, PerSide.set_get, List.append_nil, List.take_of_length_le h,
    List.length_nil, Nat.add_zero, Nat.sub_eq_zero_of_le h, countUp_zero]
  rfl

theorem edgeCue_of_note {d : Side} {n : Nat} {x : Edge} (h : x.1.cls = .note) :
    edgeCue d n x = some ⟨x.1.id, x.1.param.toNat, x.2, d, n⟩ := if_pos h

theorem edgeCue_of_ne {d : Side} {n : Nat} {x : Edge} (h : x.1.cls ≠ .note) : edgeCue d n x = none := if_neg h

/-- An entry ends: one edge. -/
theorem endEntry_taken (d : Side) (e : MapEntry) {s : State} (h : s.cues.length ≤ 16) :
    EdgesTaken d [(e, true)] (edgeCue d (s.resamplers.get d).frameNumber (e, true)).toList s (endEntry d s e) := by
  have hwalker := edgesTaken_walker d (fun w => { w with active := dropActive w.active e.id }) h
  by_cases hnote : e.cls = .note
  · rw [edgeCue_of_note hnote, endEntry, hnote]
    exact hwalker.trans (edgesTaken_cue _ (edgeOnTracker_of_ne (by rw [hnote]; decide)) h)
  · rw [edgeCue_of_ne hnote]
    by_cases htimebase : e.cls = .timebase
    · rw [endEntry, htimebase]
      exact hwalker.trans (edgesTaken_tracker (unforceTracker_eq htimebase) h)
    · have hother : endEntry d s e = withSideWalker d (fun w => { w with active := dropActive w.active e.id }) s := by
        unfold endEntry
        split
        · next hc => exact absurd hc htimebase
        · next hc => exact absurd hc hnote
        · rfl
      rw [hother]
      exact edgesTaken_quiet _ htimebase h

/-- An entry activates: one edge, with a cue unless a seek activates it. -/
theorem activateEntry_taken (d : Side) (seek : Bool) (e : MapEntry) {s : State} (h : s.cues.length ≤ 16) :
    EdgesTaken d [(e, false)] (if seek then [] else (edgeCue d (s.resamplers.get d).frameNumber (e, false)).toList) s
      (activateEntry d seek s e) := by
  have hwalker := edgesTaken_walker d (fun w => { w with active := addActive w.active (lanesOnSide d e) e.id }) h
  by_cases hnote : e.cls = .note
  · have hne : e.cls ≠ .timebase := by rw [hnote]; decide
    rw [edgeCue_of_note hnote, activateEntry, hnote]
    cases seek with
    | true => exact edgesTaken_quiet _ hne h
    | false => exact hwalker.trans (edgesTaken_cue _ (edgeOnTracker_of_ne hne) h)
  · rw [edgeCue_of_ne hnote, Option.toList_none, ite_self]
    by_cases htimebase : e.cls = .timebase
    · rw [activateEntry, htimebase]
      exact hwalker.trans (edgesTaken_tracker (forceTracker_eq htimebase) h)
    · have hother : activateEntry d seek s e =
          withSideWalker d (fun w => { w with active := addActive w.active (lanesOnSide d e) e.id }) s := by
        unfold activateEntry
        split
        · next hc => exact absurd hc htimebase
        · next hc => exact absurd hc hnote
        · rfl
      rw [hother]
      exact edgesTaken_quiet _ htimebase h

theorem endEntry_walker (d : Side) (s : State) (e : MapEntry) : (endEntry d s e).map.sideWalker.get d =
    { s.map.sideWalker.get d with active := dropActive (s.map.sideWalker.get d).active e.id } := by
  have hcue (c : Cue) (t : State) : (appendCue c t).map = t.map := by unfold appendCue; split <;> rfl
  have hset : (withSideWalker d (fun w => { w with active := dropActive w.active e.id }) s).map.sideWalker.get d =
      { s.map.sideWalker.get d with active := dropActive (s.map.sideWalker.get d).active e.id } := by
    show (PerSide.modify _ d _).get d = _
    rw [PerSide.get_modify, if_pos rfl]
  unfold endEntry
  dsimp only
  split
  · exact hset
  · rw [hcue]; exact hset
  · exact hset

theorem activateEntry_walker (d : Side) (seek : Bool) (s : State) (e : MapEntry) : (activateEntry d seek s e).map.sideWalker.get d =
    { s.map.sideWalker.get d with active := addActive (s.map.sideWalker.get d).active (lanesOnSide d e) e.id } := by
  have hcue (c : Cue) (t : State) : (appendCue c t).map = t.map := by unfold appendCue; split <;> rfl
  have hset : (withSideWalker d (fun w => { w with active := addActive w.active (lanesOnSide d e) e.id }) s).map.sideWalker.get d =
      { s.map.sideWalker.get d with active := addActive (s.map.sideWalker.get d).active (lanesOnSide d e) e.id } := by
    show (PerSide.modify _ d _).get d = _
    rw [PerSide.get_modify, if_pos rfl]
  unfold activateEntry
  dsimp only
  split
  · exact hset
  · split
    · exact hset
    · rw [hcue]; exact hset
  · exact hset

/-! ### One raw position (R118) -/

/-- Edges that are taken by the same step, one after another. -/
theorem foldl_taken {d : Side} {step : State → MapEntry → State} {isEnd : Bool} {cue : Nat → MapEntry → List Cue}
    (hstep : ∀ (e : MapEntry) {s : State}, s.cues.length ≤ 16 →
      EdgesTaken d [(e, isEnd)] (cue (s.resamplers.get d).frameNumber e) s (step s e))
    (es : List MapEntry) {s : State} (h : s.cues.length ≤ 16) : EdgesTaken d (es.map fun e => (e, isEnd))
      (es.flatMap (cue (s.resamplers.get d).frameNumber)) s (es.foldl step s) := by
  induction es generalizing s with
  | nil => exact edgesTaken_refl d h
  | cons e es ih =>
    have hone := hstep e h
    obtain ⟨-, hresamplers, hlen⟩ := hone.keeps
    have hrest := ih hlen
    rw [hresamplers] at hrest
    exact hone.trans hrest

theorem flatMap_toList_edgeCue (d : Side) (n : Nat) (isEnd : Bool) (es : List MapEntry) :
    (es.flatMap fun e => (edgeCue d n (e, isEnd)).toList) = (es.map fun e => (e, isEnd)).filterMap (edgeCue d n) := by
  induction es with
  | nil => rfl
  | cons e es ih =>
    rw [List.flatMap_cons, ih, List.map_cons, List.filterMap_cons]
    cases edgeCue d n (e, isEnd) <;> rfl

theorem ended_walker (d : Side) (es : List MapEntry) (s : State) : (es.foldl (endEntry d) s).map.sideWalker.get d =
    { s.map.sideWalker.get d with active := es.foldl (fun a e => dropActive a e.id) (s.map.sideWalker.get d).active } := by
  induction es generalizing s with
  | nil => rfl
  | cons e es ih => rw [List.foldl_cons, ih, endEntry_walker]; rfl

theorem activated_walker (d : Side) (seek : Bool) (es : List MapEntry) (s : State) :
    (es.foldl (activateEntry d seek) s).map.sideWalker.get d = { s.map.sideWalker.get d with
      active := es.foldl (fun a e => addActive a (lanesOnSide d e) e.id) (s.map.sideWalker.get d).active } := by
  induction es generalizing s with
  | nil => rfl
  | cons e es ih => rw [List.foldl_cons, ih, activateEntry_walker]; rfl

/-- The walker of a side after the entries that end and those that start at a position. -/
theorem fold_walker (d : Side) (ending starting : List MapEntry) (s : State) :
    (starting.foldl (activateEntry d false) (ending.foldl (endEntry d) s)).map.sideWalker.get d =
      { s.map.sideWalker.get d with active := activeMoved (lanesOnSide d) ending starting (s.map.sideWalker.get d).active } := by
  rw [activated_walker, ended_walker]
  rfl

theorem withSideWalker_get (d : Side) (f : Walker → Walker) (s : State) :
    (withSideWalker d f s).map.sideWalker.get d = f (s.map.sideWalker.get d) := by
  show (PerSide.modify _ d _).get d = _
  rw [PerSide.get_modify, if_pos rfl]

/-- What stands on one raw position of a side's walk. -/
theorem walkPosition_taken {d : Side} {es : List MapEntry} (hids : (es.map (·.id)).Nodup) (hpos : ∀ e ∈ es, e.start < e.stop) {s : State}
    (hes : s.map.entries = es) (hcues : s.cues.length ≤ 16) {x : Nat}
    (h : ActiveExact (onSide d) es (s.map.sideWalker.get d).active x) :
    EdgesTaken d (edgesAt d es (x + 1)) ((edgesAt d es (x + 1)).filterMap (edgeCue d (s.resamplers.get d).frameNumber)) s
      (walkPosition d (x + 1) s) ∧
    ActiveExact (onSide d) es ((walkPosition d (x + 1) s).map.sideWalker.get d).active (x + 1) ∧
    ((walkPosition d (x + 1) s).map.sideWalker.get d).running = (s.map.sideWalker.get d).running ∧
    ((walkPosition d (x + 1) s).map.sideWalker.get d).cursor = x + 1 ∧
    ((walkPosition d (x + 1) s).map.sideWalker.get d).next = (es.find? fun e => walkedOn d e && decide (x + 1 < e.start)).map (·.id) := by
  subst hes
  have hending := ending_eq hids hpos h
  have hmoved := activeExact_move (onSide_iff d) hids hpos h
  have hends := foldl_taken (cue := fun n e => (edgeCue d n (e, true)).toList) (endEntry_taken d)
    (s.map.entries.filter fun e => walkedOn d e && e.stop == x + 1) hcues
  obtain ⟨hentries, hresamplers, hlen⟩ := hends.keeps
  have hstarts := foldl_taken (cue := fun n e => (edgeCue d n (e, false)).toList) (activateEntry_taken d false)
    (s.map.entries.filter fun e => walkedOn d e && e.start == x + 1) hlen
  rw [hresamplers] at hstarts
  obtain ⟨hentries', -, -⟩ := (hends.trans hstarts).keeps
  rw [flatMap_toList_edgeCue] at hends hstarts
  have hboth := hends.trans hstarts
  rw [← List.filterMap_append] at hboth
  have hwalker := fold_walker d (s.map.entries.filter fun e => walkedOn d e && e.stop == x + 1)
    (s.map.entries.filter fun e => walkedOn d e && e.start == x + 1) s
  have hposition : walkPosition d (x + 1) s = withSideWalker d (fun w =>
      { w with cursor := x + 1, next := nextConsidered s.map.entries (consideredBySide d) (x + 1) })
      ((s.map.entries.filter fun e => walkedOn d e && e.start == x + 1).foldl (activateEntry d false)
        ((s.map.entries.filter fun e => walkedOn d e && e.stop == x + 1).foldl (endEntry d) s)) := by
    unfold walkPosition
    rw [hending]
    exact congrArg (fun es => withSideWalker d (fun w =>
      { w with cursor := x + 1, next := nextConsidered es (consideredBySide d) (x + 1) }) _) hentries'
  rw [hposition]
  rw [withSideWalker_get, hwalker]
  refine ⟨hboth.withWalker _, ?_, rfl, rfl, rfl⟩
  rw [hending] at hmoved
  exact hmoved

end Sys2Proof.Machine
end

section
/-! The moves and the seek of a side's walker, and the values in force (R50 to R53, R63, R94, R118 to R124, R132). -/

namespace Sys2Proof.Machine

/-! ### Moves (R118) -/

theorem edgesAbove_succ (d : Side) (es : List MapEntry) (x n : Nat) :
    edgesAbove d es x (n + 1) = edgesAt d es (x + 1) ++ edgesAbove d es (x + 1) n := by
  unfold edgesAbove
  rw [List.range_succ_eq_map, List.flatMap_cons, List.flatMap_map, Nat.add_zero]
  congr 2
  funext k
  congr 1
  omega

/-- The walker of a side after the positions that follow its cursor. -/
theorem walkFrom_taken {d : Side} {es : List MapEntry} (hids : (es.map (·.id)).Nodup) (hpos : ∀ e ∈ es, e.start < e.stop) (n : Nat)
    {s : State} (hes : s.map.entries = es) (hcues : s.cues.length ≤ 16) {x : Nat} (hcursor : (s.map.sideWalker.get d).cursor = x)
    (h : ActiveExact (onSide d) es (s.map.sideWalker.get d).active x) :
    EdgesTaken d (edgesAbove d es x n) ((edgesAbove d es x n).filterMap (edgeCue d (s.resamplers.get d).frameNumber)) s
      (walkFrom d x n s) ∧
    ActiveExact (onSide d) es ((walkFrom d x n s).map.sideWalker.get d).active (x + n) ∧
    ((walkFrom d x n s).map.sideWalker.get d).running = (s.map.sideWalker.get d).running ∧
    ((walkFrom d x n s).map.sideWalker.get d).cursor = x + n ∧
    (0 < n → ((walkFrom d x n s).map.sideWalker.get d).next = (es.find? fun e => walkedOn d e && decide (x + n < e.start)).map (·.id)) := by
  induction n generalizing s x with
  | zero => exact ⟨edgesTaken_refl d hcues, h, rfl, hcursor, fun hno => absurd hno (Nat.lt_irrefl 0)⟩
  | succ n ih =>
    obtain ⟨htaken, hexact, hrunning, hcursor', hnext⟩ := walkPosition_taken hids hpos hes hcues h
    obtain ⟨hentries, hresamplers, hlen⟩ := htaken.keeps
    obtain ⟨htaken', hexact', hrunning', hcursor'', hnext'⟩ := ih (hentries.trans hes) hlen hcursor' hexact
    rw [hresamplers] at htaken'
    rw [edgesAbove_succ, List.filterMap_append, walkFrom, Nat.add_comm n 1, ← Nat.add_assoc]
    refine ⟨htaken.trans htaken', hexact', hrunning'.trans hrunning, hcursor'', fun _ => ?_⟩
    cases n with
    | zero => exact hnext
    | succ n => exact hnext' (Nat.succ_pos n)

/-- The walker of a side after a seek. -/
theorem seekSide_taken {d : Side} {es : List MapEntry} (p : Nat) {s : State} (hes : s.map.entries = es) (hcues : s.cues.length ≤ 16) :
    EdgesTaken d ((es.filter fun e => walkedOn d e && decide (e.start ≤ p) && decide (p < e.stop)).map fun e => (e, false)) [] s
      (seekSide d p s) ∧
    ActiveExact (onSide d) es ((seekSide d p s).map.sideWalker.get d).active p ∧
    ((seekSide d p s).map.sideWalker.get d).running = true ∧ ((seekSide d p s).map.sideWalker.get d).cursor = p ∧
    ((seekSide d p s).map.sideWalker.get d).next = (es.find? fun e => walkedOn d e && decide (p < e.start)).map (·.id) := by
  subst hes
  have hseek : seekSide d p s = (s.map.entries.filter fun e => walkedOn d e && decide (e.start ≤ p) && decide (p < e.stop)).foldl
      (activateEntry d true) (withSideWalker d (fun w =>
        { w with cursor := p, running := true, active := Quad.fill [], next := nextConsidered s.map.entries (consideredBySide d) p }) s) := rfl
  have hstarts := foldl_taken (cue := fun _ _ => []) (activateEntry_taken d true)
    (s.map.entries.filter fun e => walkedOn d e && decide (e.start ≤ p) && decide (p < e.stop)) (s := withSideWalker d (fun w =>
        { w with cursor := p, running := true, active := Quad.fill [], next := nextConsidered s.map.entries (consideredBySide d) p }) s) hcues
  rw [show ∀ xs : List MapEntry, (xs.flatMap fun _ => ([] : List Cue)) = [] from fun xs => by simp, ← hseek] at hstarts
  rw [hseek, activated_walker, withSideWalker_get, ← hseek]
  exact ⟨(edgesTaken_walker d _ hcues).trans hstarts, activeExact_seek (onSide_iff d) p, rfl, rfl, rfl⟩

/-! ### A frame's move (R63) -/

section
variable (d : Side) (c : Nat)

/-- The state with the output cursor of a side at a place. -/
def cursorAt (s : State) : State := withResampler d (fun r => { r with cursor := c }) s

theorem cueOf_cursorAt (e : MapEntry) (isEnd : Bool) (s : State) : cueOf d e isEnd (cursorAt d c s) = cueOf d e isEnd s := by
  cases d <;> rfl

theorem appendCue_cursorAt (q : Cue) (s : State) : appendCue q (cursorAt d c s) = cursorAt d c (appendCue q s) := by
  by_cases hroom : s.cues.length < 16
  · have hset : appendCue q (cursorAt d c s) = { cursorAt d c s with cues := s.cues ++ [q] } := if_pos hroom
    have hnot : appendCue q s = { s with cues := s.cues ++ [q] } := if_pos hroom
    rw [hset, hnot]
    rfl
  · have hset : appendCue q (cursorAt d c s) =
        withCounters (fun k => { k with cuesDropped := countUp k.cuesDropped 1 }) (cursorAt d c s) := if_neg hroom
    have hnot : appendCue q s = withCounters (fun k => { k with cuesDropped := countUp k.cuesDropped 1 }) s := if_neg hroom
    rw [hset, hnot]
    rfl

theorem withSideWalker_cursorAt (f : Walker → Walker) (s : State) :
    withSideWalker d f (cursorAt d c s) = cursorAt d c (withSideWalker d f s) := rfl

theorem withTracker_cursorAt (f : Tracker → Tracker) (s : State) :
    withTracker d f (cursorAt d c s) = cursorAt d c (withTracker d f s) := rfl

theorem endEntry_cursorAt (s : State) (e : MapEntry) : endEntry d (cursorAt d c s) e = cursorAt d c (endEntry d s e) := by
  unfold endEntry
  rw [withSideWalker_cursorAt]
  cases e.cls <;> dsimp only [withTracker_cursorAt]
  rw [cueOf_cursorAt, appendCue_cursorAt]

theorem activateEntry_cursorAt (s : State) (e : MapEntry) :
    activateEntry d false (cursorAt d c s) e = cursorAt d c (activateEntry d false s e) := by
  unfold activateEntry
  rw [withSideWalker_cursorAt]
  cases e.cls <;> dsimp only [withTracker_cursorAt]
  rw [if_neg Bool.false_ne_true, if_neg Bool.false_ne_true, cueOf_cursorAt, appendCue_cursorAt]

theorem foldl_cursorAt {step : State → MapEntry → State} (hstep : ∀ s e, step (cursorAt d c s) e = cursorAt d c (step s e))
    (es : List MapEntry) (s : State) : es.foldl step (cursorAt d c s) = cursorAt d c (es.foldl step s) := by
  induction es generalizing s with
  | nil => rfl
  | cons e es ih => rw [List.foldl_cons, hstep, ih, List.foldl_cons]

theorem walkPosition_cursorAt (x : Nat) (s : State) : walkPosition d x (cursorAt d c s) = cursorAt d c (walkPosition d x s) := by
  unfold walkPosition
  dsimp only
  rw [show (cursorAt d c s).map = s.map from rfl, foldl_cursorAt d c (endEntry_cursorAt d c),
    foldl_cursorAt d c (activateEntry_cursorAt d c)]
  rfl

theorem walkFrom_cursorAt (n x : Nat) (s : State) : walkFrom d x n (cursorAt d c s) = cursorAt d c (walkFrom d x n s) := by
  induction n generalizing x s with
  | zero => rfl
  | succ n ih => rw [walkFrom, walkPosition_cursorAt, ih, walkFrom]

/-- The cursor that a frame sets bears on no walker. -/
theorem walkTo_cursorAt (x : Nat) (s : State) : walkTo d x (cursorAt d c s) = cursorAt d c (walkTo d x s) := by
  unfold walkTo
  dsimp only
  rw [show (cursorAt d c s).map = s.map from rfl, walkFrom_cursorAt]
  exact (apply_ite (cursorAt d c) _ _ _).symm

end

/-- A frame moves the walker to its output cursor, and neither the repair stages nor the equalizer touch what that left. -/
theorem produceFrame_walked (d : Side) (s : State) :
    let t := walkTo d ((s.resamplers.get d).readPos / 16777216).toNat s
    (produceFrame d s).map = t.map ∧ (produceFrame d s).trackers = t.trackers ∧ (produceFrame d s).cues = t.cues := by
  have hkeeps := handOnFrame_keeps (g := fun u : State => (u.map, u.trackers, u.cues))
    ⟨fun _ _ => rfl, fun _ _ => rfl, fun _ _ => rfl, fun _ _ => rfl, fun _ _ => rfl, fun _ _ => rfl⟩ (fun _ _ => rfl) d
    (laneInput s (firstLane d)) (laneInput s (secondLane d)) (frameMoved d s)
  have hmoved : frameMoved d s = cursorAt d ((s.resamplers.get d).readPos / 16777216).toNat
      (walkTo d ((s.resamplers.get d).readPos / 16777216).toNat s) := walkTo_cursorAt d _ _ s
  rw [produceFrame_eq]
  rw [hmoved] at hkeeps ⊢
  simp only [Prod.mk.injEq] at hkeeps
  exact hkeeps

end Sys2Proof.Machine
end

section
/-! The walkers hold the covering entries, and the values in force are theirs (Chapter 6). -/

namespace Sys2Proof.Machine

/-! ### The entry of a class in force (R82, R122) -/

section
variable {selected : MapEntry → Lane → Prop} {es : List MapEntry} {a : Quad (List Nat)} {x : Nat} {l : Lane} {c : MapClass}
  (h : ActiveExact selected es a x) (hids : (es.map (·.id)).Nodup) (hselected : ∀ e, e.cls = c → (selected e l ↔ e.hasLane l = true))
include h hids hselected

/-- An entry of the class is active on the lane exactly when it covers the position. -/
theorem mem_active_iff_covers {e : MapEntry} (he : e ∈ es) (hc : e.cls = c) : e.id ∈ a.get l ↔ e.covers l x = true := by
  rw [h.mem_iff hids he l, hselected e hc, covers_iff]

theorem activeOf_of_covers {e : MapEntry} (he : e ∈ es) (hc : e.cls = c) (hcovers : e.covers l x = true)
    (honly : ∀ f ∈ es, f.cls = c → f.covers l x = true → f = e) : activeOf es c (a.get l) = some e :=
  activeOf_of_only he hc ((mem_active_iff_covers h hids hselected he hc).mpr hcovers) fun f hf hfc hfid =>
    honly f hf hfc ((mem_active_iff_covers h hids hselected hf hfc).mp hfid)

theorem activeOf_of_not_covered (hnone : ¬ ∃ e ∈ es, e.cls = c ∧ e.covers l x = true) : activeOf es c (a.get l) = none :=
  activeOf_of_none fun e he hc hid => hnone ⟨e, he, hc, (mem_active_iff_covers h hids hselected he hc).mp hid⟩

end

/-- The active sets of the intake walker in the form of the statement. -/
theorem activeExact_onIntake_iff (es : List MapEntry) (w : Walker) : ActiveExact onIntake es w.active w.cursor ↔
    ∀ (l : Lane) (i : Nat), i ∈ w.active.get l ↔ ∃ e ∈ es, e.id = i ∧ e.cls = .threshold ∧ e.covers l w.cursor = true := by
  simp only [ActiveExact, onIntake, covers_iff, and_assoc]

theorem onIntake_threshold {l : Lane} (e : MapEntry) (h : e.cls = .threshold) : onIntake e l ↔ e.hasLane l = true :=
  and_iff_right h

theorem onSide_output {l : Lane} {c : MapClass} (hc : c ≠ .threshold) (e : MapEntry) (h : e.cls = c) :
    onSide (sideOf l) e l ↔ e.hasLane l = true := by
  rw [onSide, and_iff_right rfl, and_iff_right (h ▸ hc)]

/-- The output entry of a class on a lane, by what covers the output cursor. -/
theorem outputEntry_of_exact {es : List MapEntry} (hids : (es.map (·.id)).Nodup) {s : State} (hes : s.map.entries = es) {l : Lane}
    (h : SideWalkerExact (sideOf l) es (s.map.sideWalker.get (sideOf l))) {c : MapClass} (hc : c ≠ .threshold) :
    (∀ e, (e ∈ es ∧ e.cls = c ∧ e.covers l (s.map.sideWalker.get (sideOf l)).cursor = true ∧
      ∀ f ∈ es, f.cls = c → f.covers l (s.map.sideWalker.get (sideOf l)).cursor = true → f = e) → outputEntry s c l = some e) ∧
    ((¬ ∃ e ∈ es, e.cls = c ∧ e.covers l (s.map.sideWalker.get (sideOf l)).cursor = true) → outputEntry s c l = none) := by
  subst hes
  have hexact := (sideWalkerExact_iff _ _ _).mp h
  exact ⟨fun e ⟨he, hec, hcovers, honly⟩ => activeOf_of_covers hexact hids (onSide_output hc) he hec hcovers honly,
    fun hnone => activeOf_of_not_covered hexact hids (onSide_output hc) hnone⟩

theorem repairModeOfCode_of_listed {n : Nat} {m : RepairMode} (h : [RepairMode.pass, .mute, .hold, .twin][n]? = some m) :
    repairModeOfCode n = some m := by
  match n with
  | 0 | 1 | 2 | 3 => exact h
  | n + 4 => simp at h

theorem slotOfCode_getD_val {n : Nat} (h : n ≤ 3) : ((slotOfCode n).getD 0).val = n := by
  rw [slotOfCode_of_val (n := ⟨n, Nat.lt_succ_iff.mpr h⟩) rfl, Option.getD_some]

/-! ### The walk of a side to a cursor (R118, R120) -/

theorem walkTo_taken {d : Side} {es : List MapEntry} (hids : (es.map (·.id)).Nodup) (hpos : ∀ e ∈ es, e.start < e.stop) {s : State}
    (hes : s.map.entries = es) (hcues : s.cues.length ≤ 16) (b : Nat) (hrun : (s.map.sideWalker.get d).running = true)
    (h : SideWalkerExact d es (s.map.sideWalker.get d)) :
    let w := s.map.sideWalker.get d
    let v := (walkTo d b s).map.sideWalker.get d
    let edges := edgesAbove d es w.cursor (b - w.cursor)
    EdgesTaken d edges (edges.filterMap (edgeCue d (s.resamplers.get d).frameNumber)) s (walkTo d b s) ∧
    SideWalkerExact d es v ∧ v.running = true ∧ v.cursor = max w.cursor b ∧
    (w.cursor < b → v.next = (es.find? fun e => walkedOn d e && decide (b < e.start)).map (·.id)) := by
  obtain ⟨htaken, hexact, hrunning, hcursor, hnext⟩ := walkFrom_taken hids hpos (b - (s.map.sideWalker.get d).cursor) hes hcues rfl
    ((sideWalkerExact_iff _ _ _).mp h)
  have hwalk : walkTo d b s = walkFrom d (s.map.sideWalker.get d).cursor (b - (s.map.sideWalker.get d).cursor) s := if_pos hrun
  dsimp only
  rw [hwalk]
  refine ⟨htaken, (sideWalkerExact_iff _ _ _).mpr (hcursor ▸ hexact), hrunning.trans hrun, by omega, fun hlt => ?_⟩
  have hb : (s.map.sideWalker.get d).cursor + (b - (s.map.sideWalker.get d).cursor) = b := by omega
  have hfound := hnext (Nat.sub_pos_of_lt hlt)
  rw [hb] at hfound
  exact hfound

/-- Settles O53: the active sets are kept exact by every seek and every move to the next position, an exact set gives the one
covering entry of a class, and the edges of a side are taken one position after another. -/
theorem intakeWalkerHoldsTheCoveringEntries : Obligations.IntakeWalkerHoldsTheCoveringEntries := by
  unfold Obligations.IntakeWalkerHoldsTheCoveringEntries
  intro es hids hpos
  dsimp only
  refine ⟨fun p w => ?seek, fun w hrun h => ?move, fun s l hes h => ?threshold, fun d s hes hcues => ?side, fun d s l hes hl h => ?inForce⟩
  case seek =>
    obtain ⟨hexact, hcursor⟩ := intakeSeek_exact es p w
    exact ⟨(activeExact_onIntake_iff es _).mp (hcursor.symm ▸ hexact), hcursor, intakeSeek_running es p w⟩
  case move =>
    obtain ⟨hexact, hcursor⟩ := intakeWalk_exact hids hpos hrun ((activeExact_onIntake_iff es w).mpr h)
    exact ⟨(activeExact_onIntake_iff es _).mp (hcursor.symm ▸ hexact), hcursor⟩
  case threshold =>
    subst hes
    have hexact := (activeExact_onIntake_iff _ _).mpr h
    constructor
    · intro e he hc hcovers honly
      rw [thresholdInForce, activeOf_of_covers hexact hids onIntake_threshold he hc hcovers honly]
    · intro hnone
      rw [thresholdInForce, activeOf_of_not_covered hexact hids onIntake_threshold]
      rintro ⟨e, he, hc, hcovers⟩
      rw [hnone e he hc] at hcovers
      exact Bool.false_ne_true hcovers
  case side =>
    refine ⟨fun b hstopped => if_neg (by rw [hstopped]; exact Bool.false_ne_true), fun b hrun h => walkTo_taken hids hpos hes hcues b hrun h,
      fun p => ?_, produceFrame_walked d s⟩
    obtain ⟨htaken, hexact, hrunning, hcursor, hnext⟩ := seekSide_taken (d := d) p hes hcues
    exact ⟨htaken, (sideWalkerExact_iff _ _ _).mpr (hcursor.symm ▸ hexact), hrunning, hcursor, hnext⟩
  case inForce =>
    subst hl
    obtain ⟨hrepair, hnoRepair⟩ := outputEntry_of_exact hids hes h (c := .repair) (by decide)
    obtain ⟨hgain, hnoGain⟩ := outputEntry_of_exact hids hes h (c := .gain) (by decide)
    obtain ⟨heqset, hnoEqset⟩ := outputEntry_of_exact hids hes h (c := .eqset) (by decide)
    obtain ⟨hskew, hnoSkew⟩ := outputEntry_of_exact hids hes h (c := .skew) (by decide)
    refine ⟨fun e m he hm => ?_, fun hno => ?_, fun e he => ?_, fun hno => ?_, fun e he hle => ?_, fun hno => ?_, fun e hfirst he => ?_,
      fun hfirst hno => ?_⟩
    · rw [repairInForce, hrepair e he]
      exact congrArg (Option.getD · .pass) (repairModeOfCode_of_listed hm)
    · rw [repairInForce, hnoRepair hno]
    · rw [gainInForce, hgain e he]
    · rw [gainInForce, hnoGain hno]
    · rw [eqSetInForce, heqset e he]
      exact slotOfCode_getD_val hle
    · rw [eqSetInForce, hnoEqset hno]
    · rw [skewEntry, ← hfirst, hskew e he, Option.map_some]
    · rw [skewEntry, ← hfirst, hnoSkew hno, Option.map_none]

end Sys2Proof.Machine
end

section
/-! Frames, parcels and gaps as they are written (R19, R25, R26, R28, R29). -/

namespace Sys2Proof.Machine

/-! ### The lanes in use, one after another -/

/-- A change of each lane in use, on a quad of lane values. -/
theorem Quad.foldl_modify_lanesInUse {α : Type} (s : State) (f : Lane → α → α) (q : Quad α) :
    (lanesInUse s).foldl (fun q l => q.modify l (f l)) q =
      Quad.tabulate fun l => if s.intake.applied.laneEnable.get l = true then f l (q.get l) else q.get l := by
  have hfold (ls : List Lane) (hls : ls.Nodup) (q : Quad α) (m : Lane) :
      (ls.foldl (fun q l => q.modify l (f l)) q).get m = if m ∈ ls then f m (q.get m) else q.get m := by
    induction ls generalizing q with
    | nil => rfl
    | cons l ls ih =>
      obtain ⟨hl, hls⟩ := List.nodup_cons.mp hls
      rw [List.foldl_cons, ih hls, Quad.get_modify]
      by_cases hm : m = l
      · subst hm
        rw [if_neg hl, if_pos rfl, if_pos List.mem_cons_self]
      · simp only [hm, if_false, List.mem_cons, false_or]
  refine Quad.ext_get fun m => ?_
  rw [hfold _ (nodup_lanesInUse s), Quad.get_tabulate]
  simp only [mem_lanesInUse]

theorem foldl_writeHistory (pos : Nat) (f : Quad HistEntry) (ls : List Lane) (s : State) :
    ls.foldl (fun t l => writeHistory l pos (f.get l) t) s =
      { s with history := ls.foldl (fun q l => q.modify l fun r => ringWrite r (ringIndex pos) (f.get l)) s.history } := by
  induction ls generalizing s with
  | nil => rfl
  | cons l ls ih => exact ih (writeHistory l pos (f.get l) s)

/-- Frames presented on the lanes in use are presented on the four lanes in turn, to those of them in use. -/
theorem foldl_lanesInUse (step : State → Lane → State) (s : State) : (lanesInUse s).foldl step s =
    ([0, 1, 2, 3] : List Lane).foldl (fun t l => if s.intake.applied.laneEnable.get l = true then step t l else t) s := by
  unfold lanesInUse inUse
  rw [List.foldl_filter]
  rfl

/-! ### Frames (R28, R81) -/

theorem writeFrame_eq (pos : Nat) (f : Quad HistEntry) (s : State) : writeFrame pos f s = framePresented pos f s := by
  unfold writeFrame framePresented
  dsimp only
  rw [foldl_writeHistory, Quad.foldl_modify_lanesInUse]
  exact foldl_lanesInUse _ _

theorem writeFrames_eq (first : Nat) (fs : List (Quad HistEntry)) (s : State) :
    writeFrames first fs s = fs.zipIdx.foldl (fun u x => framePresented (first + x.2) x.1 u) s := by
  have hfrom (k : Nat) (fs : List (Quad HistEntry)) (s : State) :
      writeFrames (first + k) fs s = (fs.zipIdx k).foldl (fun u x => framePresented (first + x.2) x.1 u) s := by
    induction fs generalizing k s with
    | nil => rfl
    | cons f fs ih => rw [writeFrames, Nat.add_assoc, ih, writeFrame_eq, List.zipIdx_cons, List.foldl_cons]
  exact hfrom 0 fs s

/-! ### Parcels (R29) -/

/-- The works of a boundary, whatever the free value: all four, an update before its side's production. -/
theorem boundaryWorks_perm (s : State) : (boundaryWorks s).Perm [.update .A, .produce .A, .update .B, .produce .B] ∧
    ∀ d, [SideWork.update d, SideWork.produce d].Sublist (boundaryWorks s) := by
  have hworks (o : SideOrder) : o.works.Perm [.update .A, .produce .A, .update .B, .produce .B] ∧
      ∀ d, [SideWork.update d, SideWork.produce d].Sublist o.works := by
    refine ⟨?_, fun d => ?_⟩
    · cases o <;> decide
    · cases o <;> cases d <;> decide
  unfold boundaryWorks
  split
  · exact hworks _
  · exact hworks _

theorem writeParcel_written (first : Nat) (fs : List (Quad HistEntry)) (s : State) :
    ParcelWritten first fs s (writeParcel first fs s) := by
  rw [writeParcel, writeFrames_eq]
  generalize hpresented : fs.zipIdx.foldl (fun u x => framePresented (first + x.2) x.1 u) s = t
  obtain ⟨hperm, hbefore⟩ := boundaryWorks_perm t
  refine ⟨boundaryWorks t, if sideActive t .A && sideActive t .B then t.freeCount + 1 else t.freeCount, hperm, hbefore, ?_⟩
  rw [hpresented]
  exact installPending_eq _

/-- Missing parcels, each with its own boundary (R26). -/
theorem fillParcels_filled (first n : Nat) (s : State) : GapFilled first n s (fillParcels first n s) := by
  induction n generalizing first s with
  | zero => rfl
  | succ n ih => exact ⟨_, writeParcel_written _ _ _, ih _ _⟩

/-! ### The parcel of a pass (R19, R25) -/

theorem framesCounted_eq (s : State) : withCounters (fun c =>
    { c with framesAdmitted := (lanesInUse s).foldl (fun q l => q.modify l (countUp · 16)) c.framesAdmitted }) s = framesCounted s := by
  unfold withCounters
  dsimp only
  rw [Quad.foldl_modify_lanesInUse s fun _ => (countUp · 16)]
  rfl

/-- The state an admitted parcel leaves, but for its expected position. -/
def admittedFrames (first : Nat) (fs : List RawFrame) (s : State) : State :=
  writeParcel first (fs.map entriesOfFrame) (framesCounted s)

theorem admitParcel_eq {first : Nat} (h : first ≤ 4294967280) (fs : List RawFrame) (s : State) : admitParcel first fs s =
    { admittedFrames first fs s with
      intake := { (admittedFrames first fs s).intake with
        expected := if first = 4294967280 then none else some (first + 16) } } := by
  have hlast : maxPosition < first + 16 ↔ first = 4294967280 := by unfold maxPosition; omega
  unfold admitParcel
  dsimp only
  rw [framesCounted_eq]
  simp only [hlast, admittedFrames]

theorem admitParcel_taken {first : Nat} (h : first ≤ 4294967280) (frames : Vector RawFrame 16) (s : State) :
    ParcelTaken first frames s (admitParcel first frames.toList s) :=
  ⟨admittedFrames first frames.toList s, writeParcel_written _ _ _, admitParcel_eq h _ s⟩

end Sys2Proof.Machine
end

section
/-! The start of a pass (R21, R22): each side enabled anew. -/

namespace Sys2Proof.Machine

/-! ### The seek of a side's walker (R119) -/

/-- A side's walker and tracker as they are set. -/
def withWalk (d : Side) (w : Walker) (t : Tracker) (s : State) : State :=
  { s with map := { s.map with sideWalker := s.map.sideWalker.set d w }, trackers := s.trackers.set d t }

/-- An entry activated by a seek makes no cue. -/
theorem activateEntry_seek (d : Side) (s : State) (e : MapEntry) : activateEntry d true s e =
    withWalk d { s.map.sideWalker.get d with active := addActive (s.map.sideWalker.get d).active (lanesOnSide d e) e.id }
      (edgeOnTracker (s.trackers.get d) (e, false)) s := by
  by_cases htimebase : e.cls = .timebase
  · rw [activateEntry, htimebase, ← forceTracker_eq htimebase]
    rfl
  · rw [edgeOnTracker_of_ne htimebase, withWalk, PerSide.set_get]
    unfold activateEntry
    split
    · next h => exact absurd h htimebase
    · rfl
    · rfl

theorem foldl_activateEntry_seek (d : Side) (es : List MapEntry) (s : State) : es.foldl (activateEntry d true) s =
    withWalk d
      { s.map.sideWalker.get d with active := es.foldl (fun a e => addActive a (lanesOnSide d e) e.id) (s.map.sideWalker.get d).active }
      ((es.map fun e => (e, false)).foldl edgeOnTracker (s.trackers.get d)) s := by
  induction es generalizing s with
  | nil =>
    unfold withWalk
    rw [List.map_nil, List.foldl_nil, List.foldl_nil, List.foldl_nil, PerSide.set_get, PerSide.set_get]
  | cons e es ih =>
    rw [List.foldl_cons, ih, activateEntry_seek]
    unfold withWalk
    dsimp only
    rw [PerSide.get_set_same, PerSide.get_set_same, PerSide.set_set, PerSide.set_set]
    rfl

/-- The entries that a side's walker is at when it is sought to a position. -/
def soughtEntries (d : Side) (p : Nat) (es : List MapEntry) : List MapEntry :=
  es.filter fun e => walkedOn d e && decide (e.start ≤ p) && decide (p < e.stop)

/-- A side's walker sought to a position. -/
def soughtWalker (d : Side) (p : Nat) (es : List MapEntry) : Walker where
  cursor := p
  running := true
  next := nextConsidered es (consideredBySide d) p
  active := (soughtEntries d p es).foldl (fun a e => addActive a (lanesOnSide d e) e.id) (Quad.fill [])

theorem seekSide_eq (d : Side) (p : Nat) (s : State) : seekSide d p s = withWalk d (soughtWalker d p s.map.entries)
    (((soughtEntries d p s.map.entries).map fun e => (e, false)).foldl edgeOnTracker (s.trackers.get d)) s := by
  have hfold := foldl_activateEntry_seek d (soughtEntries d p s.map.entries) (withSideWalker d (fun w =>
        { w with cursor := p, running := true, active := Quad.fill [], next := nextConsidered s.map.entries (consideredBySide d) p }) s)
  rw [withSideWalker_get] at hfold
  refine Eq.trans hfold ?_
  unfold withWalk withSideWalker PerSide.modify
  dsimp only
  rw [PerSide.set_set]
  rfl

theorem seekSide_walker (d : Side) (p : Nat) (s : State) : (seekSide d p s).map.sideWalker.get d = soughtWalker d p s.map.entries := by
  rw [seekSide_eq]
  exact PerSide.get_set_same _ _ _

/-! ### One side (R22) -/

/-- A side's tracker after its start: anew with the forces of its seek, or its own with empty rings. -/
def startedTracker (p : Nat) (d : Side) (s : State) : Tracker :=
  if sideEnabled s d then
    ((soughtEntries d p s.map.entries).map fun e => (e, false)).foldl edgeOnTracker (startTracker true (s.trackers.get d))
  else startTracker false (s.trackers.get d)

/-- One side at the start of a pass, block by block. -/
def sideStarted (p : Nat) (d : Side) (s : State) : State :=
  { s with
    trackers := s.trackers.set d (startedTracker p d s)
    resamplers := s.resamplers.set d
      (if sideEnabled s d then startResampler p s.intake.applied.window else s.resamplers.get d)
    detectors := Quad.tabulate fun l =>
      if sideOf l = d ∧ inUse s l = true then startDetector (s.detectors.get l) else s.detectors.get l
    repairs := Quad.tabulate fun l => if sideOf l = d ∧ inUse s l = true then startRepair else s.repairs.get l
    eqLanes := Quad.tabulate fun l => if sideOf l = d ∧ sideEnabled s d = true then EqLane.reset else s.eqLanes.get l
    eqSides := s.eqSides.set d (if sideEnabled s d then EqSide.reset else s.eqSides.get d)
    partials := s.partials.set d (if sideEnabled s d then [] else s.partials.get d)
    map := { s.map with
      sideWalker := s.map.sideWalker.set d
        (if sideEnabled s d then soughtWalker d p s.map.entries else s.map.sideWalker.get d) } }

/-- A change of both lanes of a side, each by its own condition. -/
theorem Quad.lanes_set {α : Type} (d : Side) (c : Lane → Bool) (f : Lane → α) (q : Quad α) :
    (if c (secondLane d) then
        (if c (firstLane d) then q.set (firstLane d) (f (firstLane d)) else q).set (secondLane d) (f (secondLane d))
      else if c (firstLane d) then q.set (firstLane d) (f (firstLane d)) else q) =
      Quad.tabulate fun l => if sideOf l = d ∧ c l = true then f l else q.get l := by
  refine Quad.ext_get fun l => ?_
  simp only [Quad.get_tabulate, sideOf_eq_iff]
  have hne := firstLane_ne_secondLane d
  by_cases hfirst : l = firstLane d
  · subst hfirst
    cases hc : c (firstLane d) <;> cases c (secondLane d) <;> simp [Quad.get_set, hne]
  · by_cases hsecond : l = secondLane d
    · subst hsecond
      cases c (firstLane d) <;> cases hc : c (secondLane d) <;> simp [Quad.get_set, hne.symm]
    · cases c (firstLane d) <;> cases c (secondLane d) <;> simp [Quad.get_set, hfirst, hsecond]

/-- The two lanes of a side started. -/
theorem startLanes_eq (d : Side) (s : State) : (lanesOf d).foldl startLane s = { s with
    detectors := Quad.tabulate fun l =>
      if sideOf l = d ∧ inUse s l = true then startDetector (s.detectors.get l) else s.detectors.get l
    repairs := Quad.tabulate fun l => if sideOf l = d ∧ inUse s l = true then startRepair else s.repairs.get l
    eqLanes := Quad.tabulate fun l => if sideOf l = d then EqLane.reset else s.eqLanes.get l } := by
  have hdetectors := Quad.lanes_set d (inUse s) (fun l => startDetector (s.detectors.get l)) s.detectors
  have hrepairs := Quad.lanes_set d (inUse s) (fun _ => startRepair) s.repairs
  have hdelays := Quad.lanes_set d (fun _ => true) (fun _ => EqLane.reset) s.eqLanes
  simp only [if_true, and_true] at hdelays
  rw [← hdetectors, ← hrepairs, ← hdelays]
  unfold lanesOf
  rw [List.foldl_cons, List.foldl_cons, List.foldl_nil]
  have hkept : (if inUse s (firstLane d) = true then s.detectors.modify (firstLane d) startDetector else s.detectors).get (secondLane d) =
      s.detectors.get (secondLane d) := by
    split
    · rw [Quad.get_modify, if_neg (firstLane_ne_secondLane d).symm]
    · rfl
  unfold startLane Quad.modify at *
  dsimp only
  rw [show ∀ (e : Quad Detector) (r : Quad Repair) (q : Quad EqLane),
    inUse { s with detectors := e, repairs := r, eqLanes := q } (secondLane d) = inUse s (secondLane d) from fun _ _ _ => rfl, hkept]

/-- A lane of a side that is not enabled is not in use. -/
theorem inUse_of_not_enabled {s : State} {d : Side} (h : sideEnabled s d = false) {l : Lane} (hl : sideOf l = d) : inUse s l = false := by
  unfold sideEnabled at h
  rw [Bool.or_eq_false_iff] at h
  obtain rfl | rfl := (sideOf_eq_iff l d).mp hl
  · exact h.1
  · exact h.2

theorem startSide_eq (p : Nat) (d : Side) (s : State) : startSide p s d = sideStarted p d s := by
  unfold startSide sideStarted startedTracker
  cases henabled : sideEnabled s d with
  | true =>
    rw [if_pos rfl, startLanes_eq, seekSide_eq]
    unfold startBlocks withWalk PerSide.modify
    dsimp only
    simp only [PerSide.set_set, PerSide.get_set_same, if_true, and_true]
  | false =>
    have hlanes {α : Type} (f : Lane → α) (q : Quad α) :
        (Quad.tabulate fun l => if sideOf l = d ∧ inUse s l = true then f l else q.get l) = q := by
      refine Quad.ext_get fun l => ?_
      rw [Quad.get_tabulate, if_neg]
      rintro ⟨hl, huse⟩
      rw [inUse_of_not_enabled henabled hl] at huse
      exact Bool.false_ne_true huse
    have hdelays : (Quad.tabulate fun l => if sideOf l = d ∧ false = true then EqLane.reset else s.eqLanes.get l) = s.eqLanes :=
      Quad.ext_get fun l => by rw [Quad.get_tabulate, if_neg (fun h => Bool.false_ne_true h.2)]
    rw [hlanes, hlanes, hdelays]
    simp only [Bool.false_eq_true, if_false, PerSide.set_get]
    rfl

end Sys2Proof.Machine
end

section
/-! The start of a pass whole (R21, R22). -/

namespace Sys2Proof.Machine

/-- A change of the lanes of one side and then of the other, each lane by its own condition. -/
theorem Quad.both_sides {α : Type} (c : Lane → Bool) (f : Lane → α → α) (q : Quad α) :
    (Quad.tabulate fun l => if sideOf l = .B ∧ c l = true then
        f l ((Quad.tabulate fun l => if sideOf l = .A ∧ c l = true then f l (q.get l) else q.get l).get l)
      else (Quad.tabulate fun l => if sideOf l = .A ∧ c l = true then f l (q.get l) else q.get l).get l) =
      Quad.tabulate fun l => if c l = true then f l (q.get l) else q.get l := by
  refine Quad.ext_get fun l => ?_
  simp only [Quad.get_tabulate]
  cases hc : c l <;> cases hl : sideOf l <;> simp

/-- The two sides started. -/
theorem sidesStarted_eq (p : Nat) (s : State) : sideStarted p .B (sideStarted p .A s) = { s with
    trackers := ⟨startedTracker p .A s, startedTracker p .B s⟩
    resamplers :=
      ⟨if sideEnabled s .A then startResampler p s.intake.applied.window else s.resamplers.a,
        if sideEnabled s .B then startResampler p s.intake.applied.window else s.resamplers.b⟩
    detectors := Quad.tabulate fun l => if inUse s l = true then startDetector (s.detectors.get l) else s.detectors.get l
    repairs := Quad.tabulate fun l => if inUse s l = true then startRepair else s.repairs.get l
    eqLanes := Quad.tabulate fun l => if sideEnabled s (sideOf l) = true then EqLane.reset else s.eqLanes.get l
    eqSides := ⟨if sideEnabled s .A then EqSide.reset else s.eqSides.a, if sideEnabled s .B then EqSide.reset else s.eqSides.b⟩
    partials := ⟨if sideEnabled s .A then [] else s.partials.a, if sideEnabled s .B then [] else s.partials.b⟩
    map := { s.map with
      sideWalker :=
        ⟨if sideEnabled s .A then soughtWalker .A p s.map.entries else s.map.sideWalker.a,
          if sideEnabled s .B then soughtWalker .B p s.map.entries else s.map.sideWalker.b⟩ } } := by
  have hdetectors := Quad.both_sides (inUse s) (fun _ => startDetector) s.detectors
  have hrepairs := Quad.both_sides (inUse s) (fun _ _ => startRepair) s.repairs
  have hdelays := Quad.both_sides (fun l => sideEnabled s (sideOf l)) (fun _ _ => EqLane.reset) s.eqLanes
  have hside (d : Side) (l : Lane) : (sideOf l = d ∧ sideEnabled s (sideOf l) = true) = (sideOf l = d ∧ sideEnabled s d = true) :=
    propext ⟨fun ⟨hl, h⟩ => ⟨hl, hl ▸ h⟩, fun ⟨hl, h⟩ => ⟨hl, hl.symm ▸ h⟩⟩
  simp only [hside] at hdelays
  rw [← hdetectors, ← hrepairs, ← hdelays]
  rfl

/-- The state that the sides of a pass start from: the intake begun and its walker sought (R21, R119). -/
def intakeBegun (p : Nat) (s : State) : State := withIntakeWalker (intakeSeek s.map.entries p) (beginPass p s)

theorem sideEnabled_intakeBegun (p : Nat) (s : State) (d : Side) : sideEnabled (intakeBegun p s) d =
    (s.settings.laneEnable.get (firstLane d) || s.settings.laneEnable.get (secondLane d)) := rfl

theorem startedTracker_begun (p : Nat) (s : State) (d : Side) : startedTracker p d (intakeBegun p s) = begunTracker p s d := by
  unfold startedTracker begunTracker
  rw [sideEnabled_intakeBegun]
  simp only [Bool.or_eq_true]
  rfl

/-- The walker of a side enabled stands where its seek puts it. -/
theorem seekSide_walker_if (d : Side) (p : Nat) (b : Bool) (s : State) :
    (if b then seekSide d p s else s).map.sideWalker.get d =
      if b then soughtWalker d p s.map.entries else s.map.sideWalker.get d := by
  cases b with
  | true => exact seekSide_walker d p s
  | false => rfl

theorem passStart_eq (p : Nat) (s : State) : passStart p s = passBegun p s := by
  have hsides : passStart p s = restartTrim (sideStarted p .B (sideStarted p .A (intakeBegun p s))) := by
    rw [← startSide_eq, ← startSide_eq]
    rfl
  rw [hsides, sidesStarted_eq, startedTracker_begun, startedTracker_begun]
  unfold passBegun
  dsimp only
  rw [seekSide_walker_if, seekSide_walker_if]
  rfl

end Sys2Proof.Machine
end

section
/-! The lane history after frames, parcels and gaps (R26, R28, R30, R88). -/

namespace Sys2Proof.Machine

/-! ### One ring -/

/-- An entry but for its damage mark. -/
def HistEntry.unmarked (e : HistEntry) : HistEntry := { e with damaged := false }

/-- Entries stand in a ring from one position on, but for their damage marks, and every other entry is as it was but for a
damage mark set. -/
structure RingWritten (first : Nat) (es : List HistEntry) (before after : Ring) : Prop where
  stand : ∀ (i : Nat) (h : i < es.length), (ringRead after ((first + i) % 2048)).unmarked = es[i].unmarked
  kept : ElseKept first es.length before after

theorem RingWritten.refl (first : Nat) (r : Ring) : RingWritten first [] r r :=
  ⟨fun _ h => absurd h (Nat.not_lt_zero _), fun _ _ _ => ⟨rfl, id⟩⟩

theorem RingWritten.append {first : Nat} {es es' : List HistEntry} {a b c : Ring} (h : RingWritten first es a b)
    (h' : RingWritten (first + es.length) es' b c) (hlen : es.length + es'.length ≤ 2048) : RingWritten first (es ++ es') a c where
  stand i hi := by
    rw [List.length_append] at hi
    by_cases hlt : i < es.length
    · rw [List.getElem_append_left hlt, ← h.stand i hlt]
      exact (h'.kept _ (Nat.mod_lt _ (by decide)) fun k hk => by omega).1
    · rw [List.getElem_append_right (Nat.not_lt.mp hlt), ← h'.stand (i - es.length) (by omega)]
      congr 3
      omega
  kept j hj hout := by
    rw [List.length_append] at hout
    obtain ⟨heq, hmark⟩ := h.kept j hj fun i hi => hout i (by omega)
    obtain ⟨heq', hmark'⟩ := h'.kept j hj fun i hi => by
      rw [Nat.add_assoc]
      exact hout (es.length + i) (by omega)
    exact ⟨heq'.trans heq, fun hd => hmark' (hmark hd)⟩

/-- One entry written. -/
theorem ringWritten_write (first : Nat) (e : HistEntry) {r : Ring} (h : Ring.wf r) :
    RingWritten first [e] r (ringWrite r (first % 2048) e) where
  stand i hi := by
    obtain rfl : i = 0 := Nat.lt_one_iff.mp hi
    rw [Nat.add_zero, ringRead_write_same r _ e h.1]
    rfl
  kept j _ hout := by
    rw [ringRead_write_other r (first % 2048) j e (hout 0 Nat.one_pos)]
    exact ⟨rfl, id⟩

/-! ### The four rings -/

/-- Frames stand in the rings of the lanes in use from one position on, and the other rings are as they were. -/
structure HistoryWritten (first : Nat) (fs : List (Quad HistEntry)) (s t : State) : Prop where
  canonical : HistoryCanonical t
  applied : t.intake.applied = s.intake.applied
  unused : ∀ l, s.intake.applied.laneEnable.get l = false → t.history.get l = s.history.get l
  written : ∀ l, s.intake.applied.laneEnable.get l = true →
    RingWritten first (fs.map (·.get l)) (s.history.get l) (t.history.get l)

theorem HistoryWritten.refl (first : Nat) {s : State} (h : HistoryCanonical s) : HistoryWritten first [] s s :=
  ⟨h, rfl, fun _ _ => rfl, fun _ _ => RingWritten.refl first _⟩

theorem HistoryWritten.append {first : Nat} {fs fs' : List (Quad HistEntry)} {s t u : State} (h : HistoryWritten first fs s t)
    (h' : HistoryWritten (first + fs.length) fs' t u) (hlen : fs.length + fs'.length ≤ 2048) :
    HistoryWritten first (fs ++ fs') s u where
  canonical := h'.canonical
  applied := h'.applied.trans h.applied
  unused l hl := (h'.unused l (by rw [h.applied]; exact hl)).trans (h.unused l hl)
  written l hl := by
    have hnext := h'.written l (by rw [h.applied]; exact hl)
    rw [← List.length_map (·.get l)] at hnext
    rw [List.map_append]
    exact (h.written l hl).append hnext (by rwa [List.length_map, List.length_map])

/-- What reads as one state reads as the other. -/
theorem HistoryWritten.congr {first : Nat} {fs : List (Quad HistEntry)} {s s' t t' : State} (h : HistoryWritten first fs s t)
    (hs : s'.history = s.history) (hs' : s'.intake.applied = s.intake.applied) (ht : t'.history = t.history)
    (ht' : t'.intake.applied = t.intake.applied) : HistoryWritten first fs s' t' where
  canonical := by unfold HistoryCanonical; rw [ht]; exact h.canonical
  applied := by rw [ht', hs', h.applied]
  unused l hl := by rw [ht, hs]; exact h.unused l (by rw [← hs']; exact hl)
  written l hl := by rw [ht, hs]; exact h.written l (by rw [← hs']; exact hl)

/-! ### A frame presented (R81, R88) -/

/-- A detector marks its own lane's ring alone. -/
theorem presentFrame_history (l : Lane) (pos x : Nat) {s : State} (h : HistoryCanonical s) :
    (∀ m, m ≠ l → (presentFrame l pos s).history.get m = s.history.get m) ∧
    RingWritten x [] (s.history.get l) ((presentFrame l pos s).history.get l) := by
  obtain ⟨e, -, marked, -, hother, hentry, hpresented⟩ := presentFrame_marks l pos h
  have hhistory : (presentFrame l pos s).history = marked.history := by
    rw [hpresented]
    cases e.closed with
    | none => rfl
    | some stop => exact appendDamage_history _ _
  rw [hhistory]
  refine ⟨hother, fun _ hi => absurd hi (Nat.not_lt_zero _), fun j hj _ => ?_⟩
  rw [hentry j hj (decide (∃ i < e.markCount, j = (e.markFrom + i) % 2048)) decide_eq_true_iff]
  exact ⟨rfl, fun hd => by simp [hd]⟩

/-- Frames presented to lanes in use. -/
theorem presentFrames_written (pos x : Nat) {ls : List Lane} {s : State} (hls : ∀ l ∈ ls, inUse s l = true) (h : HistoryCanonical s) :
    HistoryWritten x [] s (ls.foldl (fun t l => presentFrame l pos t) s) := by
  induction ls generalizing s with
  | nil => exact HistoryWritten.refl x h
  | cons l ls ih =>
    have hintake : (presentFrame l pos s).intake = s.intake := presentFrame_intake l pos s
    obtain ⟨hother, hmarked⟩ := presentFrame_history l pos x h
    have hfirst : HistoryWritten x [] s (presentFrame l pos s) := by
      refine ⟨presentFrame_wf l pos s h, by rw [hintake], fun m hm => hother m fun hml => ?_, fun m _ => ?_⟩
      · rw [hml] at hm
        exact absurd ((hls l List.mem_cons_self).symm.trans hm) (by decide)
      · by_cases hml : m = l
        · exact hml ▸ hmarked
        · rw [hother m hml]
          exact RingWritten.refl x _
    exact hfirst.append (ih (fun m hm => by
      rw [inUse, hintake]
      exact hls m (List.mem_cons_of_mem _ hm)) (presentFrame_wf l pos s h)) (by decide)

/-- A frame written. -/
theorem writeFrame_written (pos : Nat) (f : Quad HistEntry) {s : State} (h : HistoryCanonical s) :
    HistoryWritten pos [f] s (writeFrame pos f s) := by
  have hwrites : HistoryWritten pos [f] s ((lanesInUse s).foldl (fun t l => writeHistory l pos (f.get l) t) s) := by
    have hcanonical : HistoryCanonical ((lanesInUse s).foldl (fun t l => writeHistory l pos (f.get l) t) s) :=
      foldl_preserves HistoryCanonical _ (fun t l ht => writeHistory_wf l pos _ t ht) _ s h
    rw [foldl_writeHistory, Quad.foldl_modify_lanesInUse] at hcanonical ⊢
    refine ⟨hcanonical, rfl, fun l hl => ?_, fun l hl => ?_⟩
    · show (Quad.tabulate _).get l = _
      rw [Quad.get_tabulate, if_neg (by rw [hl]; decide)]
    · show RingWritten pos [f.get l] _ ((Quad.tabulate _).get l)
      rw [Quad.get_tabulate, if_pos hl]
      exact ringWritten_write pos _ (h l)
  unfold writeFrame
  dsimp only
  generalize (lanesInUse s).foldl (fun t l => writeHistory l pos (f.get l) t) s = t at hwrites ⊢
  have hmoved : HistoryWritten pos [f] s (withIntakeWalker (intakeWalk t.map.entries pos) { t with intake := { t.intake with position := pos } }) :=
    hwrites.congr rfl rfl rfl rfl
  exact hmoved.append (presentFrames_written pos _ (fun l hl => (mem_lanesInUse _ l).mp hl) hmoved.canonical)
    (show 1 + 0 ≤ 2048 by decide)

/-! ### Frames, parcels and gaps -/

theorem writeFrames_written (first : Nat) (fs : List (Quad HistEntry)) {s : State} (h : HistoryCanonical s) (hlen : fs.length ≤ 2048) :
    HistoryWritten first fs s (writeFrames first fs s) := by
  induction fs generalizing first s with
  | nil => exact HistoryWritten.refl first h
  | cons f fs ih =>
    have hframe := writeFrame_written first f h
    exact hframe.append (ih (first + 1) hframe.canonical (Nat.le_of_succ_le hlen)) (by
      rw [List.length_singleton, Nat.add_comm]
      exact hlen)

theorem writeParcel_history (first : Nat) (fs : List (Quad HistEntry)) {s : State} (h : HistoryCanonical s) (hlen : fs.length ≤ 2048) :
    HistoryWritten first fs s (writeParcel first fs s) :=
  (writeFrames_written first fs h hlen).congr rfl rfl (boundary_history _) (by rw [writeParcel, boundary_intake])

theorem fillParcels_history (first n : Nat) {s : State} (h : HistoryCanonical s) (hlen : 16 * n ≤ 2048) :
    HistoryWritten first (List.replicate (16 * n) filledFrame) s (fillParcels first n s) := by
  induction n generalizing first s with
  | zero => exact HistoryWritten.refl first h
  | succ n ih =>
    have hparcel := writeParcel_history first (List.replicate 16 filledFrame) h (by decide)
    have hrest := ih (first + 16) hparcel.canonical (by omega)
    have hall := hparcel.append (fs' := List.replicate (16 * n) filledFrame) hrest (by simp only [List.length_replicate]; omega)
    rw [List.replicate_append_replicate, show 16 + 16 * n = 16 * (n + 1) by omega] at hall
    exact hall

theorem admitParcel_history (first : Nat) (frames : Vector RawFrame 16) {s : State} (h : HistoryCanonical s) :
    HistoryWritten first (frames.toList.map entriesOfFrame) s (admitParcel first frames.toList s) := by
  have hlen : (frames.toList.map entriesOfFrame).length ≤ 2048 := by
    rw [List.length_map, Vector.length_toList]
    decide
  unfold admitParcel
  dsimp only
  rw [framesCounted_eq]
  exact (writeParcel_history first _ (s := framesCounted s) h hlen).congr rfl rfl rfl rfl

/-- A parcel's frames stand as the parcel brought them. -/
theorem RingWritten.framesStand {first : Nat} {frames : Vector RawFrame 16} {l : Lane} {a b : Ring}
    (h : RingWritten first ((frames.toList.map entriesOfFrame).map (·.get l)) a b) : FramesStand first frames l b := by
  intro i
  have hi : i.val < ((frames.toList.map entriesOfFrame).map (·.get l)).length := by
    rw [List.length_map, List.length_map, Vector.length_toList]
    exact i.isLt
  refine (h.stand i.val hi).trans ?_
  rw [List.getElem_map, List.getElem_map, Vector.getElem_toList, entriesOfFrame, Quad.get_tabulate]
  rfl

/-- Settles O22: the parcel's frames are written one after another, and a boundary does not touch the history. -/
theorem admittedFramesStandInTheHistory : Obligations.AdmittedFramesStandInTheHistory := by
  unfold Obligations.AdmittedFramesStandInTheHistory
  intro first frames s hphase hplay hrun hfirst hexpected hwf
  refine ⟨_, exec_rawParcel_of_running first frames hphase, ?_⟩
  rw [takeRaw_of_running (s := countReceived .U s) hplay hfirst hrun, continueWith_of_expected (s := countReceived .U s) hexpected]
  obtain ⟨hcanonical, -, hunused, hwritten⟩ := admitParcel_history first.toNat frames (s := countReceived .U s) hwf
  refine ⟨hcanonical, hunused, fun l hl => ⟨(hwritten l hl).framesStand, ?_⟩⟩
  have hkept := (hwritten l hl).kept
  rwa [List.length_map, List.length_map, Vector.length_toList] at hkept

end Sys2Proof.Machine
end

section
/-! The first parcel of a pass: no mark falls outside its frames, and what it counts (R19, R21, R30, R80, R88). -/

namespace Sys2Proof.Machine

/-! ### Runs that begin within a pass -/

/-- A frame at or above a position, met by a detector whose suspect run began there, marks frames of that range only: the
frame itself, or the suspect run up to it. -/
theorem examineFrame_within {first pos : Nat} (hpos : first ≤ pos) {inEff out : Nat} {low : Bool} {e : HistEntry} {d : Detector}
    (hd : d.state = .suspect → first ≤ d.start) :
    let x := examineFrame inEff out low pos e d
    (x.next.state = .suspect → first ≤ x.next.start) ∧ ∀ i < x.markCount, first ≤ x.markFrom + i ∧ x.markFrom + i ≤ pos := by
  unfold examineFrame
  split
  case h_4 hstate =>
    have hstart := hd hstate
    grind [joinRun]
  all_goals grind [joinRun]

/-- Since a state, the history has changed at `n` positions from one on alone, and no suspect run began below them. -/
structure WrittenWithin (first n : Nat) (s t : State) : Prop where
  canonical : HistoryCanonical t
  applied : t.intake.applied = s.intake.applied
  runs : ∀ l, inUse s l = true → (t.detectors.get l).state = .suspect → first ≤ (t.detectors.get l).start
  beyond : ∀ l, ∀ j < 2048, (∀ i < n, j ≠ (first + i) % 2048) → ringRead (t.history.get l) j = ringRead (s.history.get l) j

section
variable {first n pos : Nat} {s t : State}

theorem WrittenWithin.write (h : WrittenWithin first n s t) (hpos : first ≤ pos) (hn : pos < first + n) (l : Lane) (e : HistEntry) :
    WrittenWithin first n s (writeHistory l pos e t) where
  canonical := writeHistory_wf l pos e t h.canonical
  applied := h.applied
  runs := h.runs
  beyond m j hj hout := by
    rw [← h.beyond m j hj hout]
    have hne : j ≠ ringIndex pos := by
      have := hout (pos - first) (by omega)
      rwa [Nat.add_sub_cancel' hpos] at this
    show ringRead ((t.history.modify l fun r => ringWrite r (ringIndex pos) e).get m) j = _
    rw [Quad.get_modify]
    split
    · rw [ringRead_write_other _ _ _ _ hne]
    · rfl

theorem WrittenWithin.present (h : WrittenWithin first n s t) (hpos : first ≤ pos) (hn : pos < first + n) {l : Lane}
    (huse : inUse s l = true) : WrittenWithin first n s (presentFrame l pos t) := by
  obtain ⟨x, hx, marked, hframe, hother, hentry, hpresented⟩ := presentFrame_marks l pos h.canonical
  obtain ⟨hrun, hmarks⟩ := hx ▸ examineFrame_within hpos (h.runs l huse)
  have hkept : (presentFrame l pos t).history = marked.history ∧ (presentFrame l pos t).detectors = marked.detectors := by
    rw [hpresented]
    cases x.closed with
    | none => exact ⟨rfl, rfl⟩
    | some stop => exact ⟨appendDamage_history _ _, appendDamage_detectors _ _⟩
  have hdetectors : marked.detectors = t.detectors.set l x.next := by rw [hframe]
  refine ⟨presentFrame_wf l pos t h.canonical, by rw [presentFrame_intake, h.applied], fun m hm => ?_, fun m j hj hout => ?_⟩
  · rw [hkept.2, hdetectors, Quad.get_set]
    split
    · exact hrun
    · exact h.runs m hm
  · rw [hkept.1, ← h.beyond m j hj hout]
    by_cases hml : m = l
    · subst hml
      have hfalse : false = true ↔ ∃ i < x.markCount, j = (x.markFrom + i) % 2048 := by
        refine ⟨fun hno => absurd hno Bool.false_ne_true, fun ⟨i, hi, hji⟩ => ?_⟩
        obtain ⟨hlow, hhigh⟩ := hmarks i hi
        have := hout (x.markFrom + i - first) (by omega)
        rw [Nat.add_sub_cancel' hlow] at this
        exact absurd hji this
      rw [hentry j hj false hfalse, Bool.or_false]
    · rw [hother m hml]

theorem WrittenWithin.frame (h : WrittenWithin first n s t) (hpos : first ≤ pos) (hn : pos < first + n) (f : Quad HistEntry) :
    WrittenWithin first n s (writeFrame pos f t) := by
  have hwritten := foldl_preserves (WrittenWithin first n s) (fun u l => writeHistory l pos (f.get l) u)
    (fun u l hu => hu.write hpos hn l (f.get l)) (lanesInUse t) t h
  unfold writeFrame
  dsimp only
  generalize (lanesInUse t).foldl (fun t l => writeHistory l pos (f.get l) t) t = u at hwritten ⊢
  have hmoved : WrittenWithin first n s (withIntakeWalker (intakeWalk u.map.entries pos) { u with intake := { u.intake with position := pos } }) :=
    ⟨hwritten.canonical, hwritten.applied, hwritten.runs, hwritten.beyond⟩
  have huse : ∀ l ∈ lanesInUse (withIntakeWalker (intakeWalk u.map.entries pos) { u with intake := { u.intake with position := pos } }),
      inUse s l = true := fun l hl => by
    rw [inUse, ← hmoved.applied]
    exact (mem_lanesInUse _ l).mp hl
  generalize lanesInUse (withIntakeWalker (intakeWalk u.map.entries pos) { u with intake := { u.intake with position := pos } }) = ls at huse
  generalize withIntakeWalker (intakeWalk u.map.entries pos) { u with intake := { u.intake with position := pos } } = v at hmoved ⊢
  induction ls generalizing v with
  | nil => exact hmoved
  | cons l ls ih =>
    exact ih (fun m hm => huse m (List.mem_cons_of_mem _ hm)) _ (hmoved.present hpos hn (huse l List.mem_cons_self))

theorem WrittenWithin.frames (fs : List (Quad HistEntry)) (h : WrittenWithin first n s t) (hpos : first ≤ pos)
    (hn : pos + fs.length ≤ first + n) : WrittenWithin first n s (writeFrames pos fs t) := by
  induction fs generalizing pos t with
  | nil => exact h
  | cons f fs ih =>
    rw [List.length_cons] at hn
    exact ih (h.frame hpos (by omega) f) (by omega) (by omega)

end

/-! ### The first parcel of a pass (R21, R30) -/

theorem ringRead_nil (j : Nat) : ringRead [] j = clearedEntry := ringRead_below [] j (by simp)

/-- A pass begins with detectors that hold no run on the lanes in use. -/
theorem passStart_detectors (p : Nat) (s : State) {l : Lane} (h : s.settings.laneEnable.get l = true) :
    ((passStart p s).detectors.get l).state = .clear := by
  rw [passStart_eq]
  show Detector.state ((Quad.tabulate _).get l) = _
  rw [Quad.get_tabulate, if_pos h]

theorem passStart_applied (p : Nat) (s : State) : (passStart p s).intake.applied = ⟨s.settings.laneEnable, s.settings.direction, s.settings.window⟩ := by
  rw [passStart_eq]
  rfl

/-- The rings after the first parcel of a pass. -/
theorem startWith_history (first : Nat) (frames : Vector RawFrame 16) (s : State) :
    HistoryCanonical (startWith first frames.toList s) ∧
    HistoryBegins s.settings.laneEnable first frames (startWith first frames.toList s).history := by
  have huse : (passStart first s).intake.applied.laneEnable = s.settings.laneEnable := by rw [passStart_applied]
  have hbegun (l : Lane) : (passStart first s).history.get l = [] := by rw [passStart_history, Quad.get_fill]
  obtain ⟨hcanonical, -, hunused, hwritten⟩ := admitParcel_history first frames (passStart_wf first s)
  have hfresh : WrittenWithin first 16 (passStart first s) (framesCounted (passStart first s)) :=
    ⟨passStart_wf first s, rfl, fun l hl hsuspect => absurd (hsuspect.symm.trans (passStart_detectors first s (huse ▸ hl))) (by decide),
      fun _ _ _ _ => rfl⟩
  have hwithin := hfresh.frames (frames.toList.map entriesOfFrame) le_rfl (by rw [List.length_map, Vector.length_toList])
  refine ⟨hcanonical, fun l => ⟨fun hl j _ => ?_, fun hl => ⟨(hwritten l (huse ▸ hl)).framesStand, fun j hj hout => ?_⟩⟩⟩
  · unfold startWith
    rw [hunused l (huse ▸ hl), hbegun, ringRead_nil]
  · have hread := hwithin.beyond l j hj hout
    have hhistory : (startWith first frames.toList s).history =
        (writeFrames first (frames.toList.map entriesOfFrame) (framesCounted (passStart first s))).history := by
      unfold startWith admitParcel
      dsimp only
      rw [framesCounted_eq]
      exact boundary_history _
    rw [hhistory, hread, hbegun, ringRead_nil]

end Sys2Proof.Machine
end

section
/-! The start of a pass at an admitted RAW parcel (R19, R21, R24, R25, R28, R30). -/

namespace Sys2Proof.Machine

/-! ### What an output frame keeps (R63) -/

/-- What the walker's move, the frame handed on and the resampler's advance of an output frame keep. -/
structure OutputKeeps {γ : Type} (g : State → γ) : Prop extends WalkKeeps g where
  handed : ∀ d x y s, g (handOnFrame d x y s) = g s
  resamplers : ∀ (s : State) x, g { s with resamplers := x } = g s

theorem OutputKeeps.produced {γ : Type} {g : State → γ} (h : OutputKeeps g) (d : Side) (s : State) : g (production d s) = g s := by
  have hframe (s : State) : g (produceFrame d s) = g s := by
    rw [produceFrame_eq, withResampler, h.resamplers, h.handed, frameMoved, h.walked, h.resamplers]
  have hupto (n : Nat) (s : State) : g (produceUpTo d n s) = g s := by
    induction n generalizing s with
    | zero => rfl
    | succ n ih =>
      unfold produceUpTo
      split
      · rw [ih, hframe]
      · rfl
  unfold production
  split
  · exact hupto _ s
  · rfl

/-! ### What RAW parcels alone move (R8, R19, R26, R27) -/

/-- The parcels received on U, the gaps and breaks of the stream, the frames admitted, and what STREAM_GAP has left. -/
structure Arrivals where
  received : BitVec 32
  gaps : BitVec 32
  breaks : BitVec 32
  admitted : Quad (BitVec 32)
  gapFlag : Bool
  gapNotices : List Notice

def State.arrivals (s : State) : Arrivals where
  received := s.counters.receivedU
  gaps := s.counters.streamGaps
  breaks := s.counters.streamBreaks
  admitted := s.counters.framesAdmitted
  gapFlag := s.flags.getLsbD EventKind.streamGap.code
  gapNotices := s.notices.filter (·.kind == .streamGap)

/-- Other events leave the flag and the notices of STREAM_GAP. -/
theorem raise_arrivals {k : EventKind} (hk : k ≠ .streamGap) (s : State) : (raise k s).arrivals = s.arrivals := by
  have hflag : (raise k s).flags.getLsbD EventKind.streamGap.code = s.flags.getLsbD EventKind.streamGap.code := by
    rw [raise_flags_get, beq_eq_false_iff_ne.mpr hk.symm, Bool.or_false]
  have hnotices : (raise k s).notices.filter (·.kind == .streamGap) = s.notices.filter (·.kind == .streamGap) := by
    obtain heq | ⟨-, heq⟩ := raise_notices k s
    · rw [heq]
    · rw [heq, List.filter_append, List.filter_cons_of_neg (by simpa using hk), List.filter_nil, List.append_nil]
  unfold State.arrivals
  rw [hflag, hnotices]
  rfl

theorem completePartial_arrivals (d : Side) (s : State) : (completePartial d s).arrivals = s.arrivals := by
  unfold completePartial
  split
  · rfl
  · unfold queueClean
    split <;> rfl

theorem putOut_arrivals (d : Side) (r : FrameRecord) (s : State) : (putOut d r s).arrivals = s.arrivals := by
  have hclip (l : Lane) (f : FlagSet) (s : State) : (countClip l f s).arrivals = s.arrivals := by
    unfold countClip
    split
    · exact raise_arrivals (by decide) _
    · rfl
  have hjoin (f : CleanFrame) (s : State) : (assemble d f s).arrivals = s.arrivals := by
    unfold assemble
    dsimp only
    split
    · exact completePartial_arrivals d _
    · rfl
  unfold putOut
  rw [hjoin, hclip, hclip]

theorem eqIntake_arrivals (d : Side) (a b : LaneIntake) (r : Option FrameRecord) (s : State) : (eqIntake d a b r s).arrivals = s.arrivals := by
  have hlane (l : Lane) (x : LaneIntake) (s : State) : (takeLane l x s).arrivals = s.arrivals := by
    cases x <;> rfl
  have hlanes := (hlane (secondLane d) b (takeLane (firstLane d) a s)).trans (hlane (firstLane d) a s)
  unfold eqIntake
  dsimp only
  split
  · exact hlanes
  · split
    · exact (putOut_arrivals d _ _).trans hlanes
    · exact hlanes

theorem outputKeeps_arrivals : OutputKeeps State.arrivals where
  walkers _ _ _ := rfl
  cued c s := by unfold appendCue; split <;> rfl
  forced _ _ _ := rfl
  unforced _ _ _ := rfl
  resamplers _ _ := rfl
  handed d x y s := by
    have hrepair (l : Lane) (x other : Option LaneInput) (s : State) : (repairLane l x other s).2.arrivals = s.arrivals := by
      cases x <;> rfl
    rw [handOnFrame_eq]
    exact (eqIntake_arrivals _ _ _ _ _).trans ((hrepair _ _ _ _).trans (hrepair _ _ _ _))

theorem updateTracker_arrivals (d : Side) (s : State) : (updateTracker d s).arrivals = s.arrivals := by
  have htrim (s : State) : (trimCount d s).arrivals = s.arrivals := by
    unfold trimCount
    split
    · dsimp only
      split <;> rfl
    · rfl
  unfold updateTracker
  split
  · dsimp only
    rw [htrim]
    split
    · exact raise_arrivals (by cases d <;> decide) _
    · rfl
  · rfl

theorem boundary_arrivals (s : State) : (boundary s).arrivals = s.arrivals := by
  unfold boundary
  rw [installPending_eq]
  refine (foldl_keeps State.arrivals doSideWork (fun u w => ?_) (boundaryWorks s) _).trans rfl
  cases w with
  | update d => exact updateTracker_arrivals d u
  | produce d => exact outputKeeps_arrivals.produced d u

theorem appendDamage_arrivals (r : DamageRecord) (s : State) : (appendDamage r s).arrivals = s.arrivals := by
  obtain ⟨-, heq⟩ | ⟨-, heq⟩ | ⟨-, -, heq⟩ := appendDamage_cases r s
  · rw [heq]
    exact raise_arrivals (by decide) _
  · rw [heq]
    exact raise_arrivals (by decide) _
  · rw [heq]
    rfl

theorem presentFrame_arrivals (l : Lane) (pos : Nat) (s : State) : (presentFrame l pos s).arrivals = s.arrivals := by
  obtain ⟨x, t, -, ht, hpresented⟩ := presentFrame_eq l pos s
  have hmarked : t.arrivals = s.arrivals := by
    rw [ht]
    exact markRun_keeps State.arrivals l (fun _ _ => rfl) _ _ _
  obtain ⟨-, heq⟩ | ⟨stop, -, heq⟩ := hpresented
  · rw [heq, hmarked]
  · rw [heq]
    exact (appendDamage_arrivals _ _).trans hmarked

theorem writeFrame_arrivals (pos : Nat) (f : Quad HistEntry) (s : State) : (writeFrame pos f s).arrivals = s.arrivals := by
  unfold writeFrame
  dsimp only
  rw [foldl_keeps State.arrivals _ (fun s l => presentFrame_arrivals l pos s)]
  exact foldl_keeps State.arrivals (fun t l => writeHistory l pos (f.get l) t) (fun _ _ => rfl) (lanesInUse s) s

theorem writeParcel_arrivals (first : Nat) (fs : List (Quad HistEntry)) (s : State) : (writeParcel first fs s).arrivals = s.arrivals := by
  have hframes (first : Nat) (s : State) : (writeFrames first fs s).arrivals = s.arrivals := by
    induction fs generalizing first s with
    | nil => rfl
    | cons f fs ih => rw [writeFrames, ih, writeFrame_arrivals]
  rw [writeParcel, boundary_arrivals, hframes]

theorem admitParcel_arrivals (first : Nat) (fs : List RawFrame) (s : State) :
    (admitParcel first fs s).arrivals = (framesCounted s).arrivals := by
  unfold admitParcel
  dsimp only
  rw [framesCounted_eq]
  exact writeParcel_arrivals _ _ (framesCounted s)

/-! ### The intake position (R28) -/

theorem writeFrame_intake (pos : Nat) (f : Quad HistEntry) (s : State) :
    (writeFrame pos f s).intake = { s.intake with position := pos } := by
  unfold writeFrame
  dsimp only
  rw [foldl_keeps State.intake _ (fun s l => presentFrame_intake l pos s)]
  exact congrArg (fun i : Intake => { i with position := pos })
    (foldl_keeps State.intake (fun t l => writeHistory l pos (f.get l) t) (fun _ _ => rfl) (lanesInUse s) s)

theorem writeFrames_intake (pos : Nat) {fs : List (Quad HistEntry)} (h : fs ≠ []) (s : State) :
    (writeFrames pos fs s).intake = { s.intake with position := pos + fs.length - 1 } := by
  induction fs generalizing pos s with
  | nil => exact absurd rfl h
  | cons f fs ih =>
    cases fs with
    | nil => exact writeFrame_intake pos f s
    | cons g fs =>
      rw [writeFrames, ih (pos + 1) (List.cons_ne_nil _ _), writeFrame_intake, List.length_cons (a := f), Nat.add_right_comm pos 1,
        Nat.add_assoc]

theorem writeParcel_intake (first : Nat) {fs : List (Quad HistEntry)} (h : fs.length = 16) (s : State) :
    (writeParcel first fs s).intake = { s.intake with position := first + 15 } := by
  have hne : fs ≠ [] := fun hnil => by rw [hnil] at h; exact absurd h (by decide)
  rw [writeParcel, boundary_intake, writeFrames_intake first hne, h]
  rfl

theorem admitParcel_intake {first : Nat} (h : first ≤ 4294967280) (frames : Vector RawFrame 16) (s : State) :
    (admitParcel first frames.toList s).intake = { s.intake with
      position := first + 15, expected := if first = 4294967280 then none else some (first + 16) } := by
  have hlen : (frames.toList.map entriesOfFrame).length = 16 := by rw [List.length_map, Vector.length_toList]
  rw [admitParcel_eq h]
  show { (admittedFrames first frames.toList s).intake with
    expected := if first = 4294967280 then none else some (first + 16) } = _
  rw [admittedFrames, writeParcel_intake first hlen]
  rfl

/-! ### The sides at work (R43) -/

/-- A parcel of a pass leaves each tracker IDLE or not as it was. -/
theorem admitParcel_idle (first : Nat) (fs : List RawFrame) (s : State) (d : Side) :
    ((admitParcel first fs s).trackers.get d).state = .idle ↔ (s.trackers.get d).state = .idle := by
  have hview := writeParcel_passView first (fs.map entriesOfFrame) (framesCounted s)
  have hactive : sideActive (admitParcel first fs s) d = sideActive s d := by
    unfold admitParcel
    dsimp only
    rw [framesCounted_eq]
    exact congrArg (fun v => (v.sides d).1) hview
  rw [← not_iff_not, ← ne_eq, ← ne_eq, ← sideActive_iff, ← sideActive_iff, hactive]

theorem admitParcel_intakeWalker (first : Nat) (fs : List RawFrame) (s : State) :
    (admitParcel first fs s).map.intakeWalker.running = s.map.intakeWalker.running := by
  have hview := writeParcel_passView first (fs.map entriesOfFrame) (framesCounted s)
  unfold admitParcel
  dsimp only
  rw [framesCounted_eq]
  exact congrArg PassView.walker hview

theorem edgeOnTracker_start_idle_iff (e : MapEntry) (t : Tracker) : (edgeOnTracker t (e, false)).state = .idle ↔ t.state = .idle := by
  by_cases h : e.cls = .timebase
  · rw [← forceTracker_eq h, forceTracker_idle_iff]
  · rw [edgeOnTracker_of_ne h]

/-- At the start of a pass a side enabled is at work, and another as it was. -/
theorem begunTracker_idle_iff (p : Nat) (s : State) (d : Side) : (begunTracker p s d).state ≠ .idle ↔
    (s.settings.laneEnable.get (firstLane d) = true ∨ s.settings.laneEnable.get (secondLane d) = true) ∨ (s.trackers.get d).state ≠ .idle := by
  unfold begunTracker
  split
  · next h =>
    have hstarts (es : List MapEntry) (t : Tracker) (ht : t.state ≠ .idle) :
        ((es.map fun e => (e, false)).foldl edgeOnTracker t).state ≠ .idle := by
      induction es generalizing t with
      | nil => exact ht
      | cons e es ih => exact ih _ (fun hidle => ht ((edgeOnTracker_start_idle_iff e t).mp hidle))
    exact iff_of_true (hstarts _ _ (by decide)) (Or.inl h)
  · next h => rw [or_iff_right h]

theorem passStart_tracker (p : Nat) (s : State) (d : Side) : (passStart p s).trackers.get d = begunTracker p s d := by
  rw [passStart_eq]
  cases d <;> rfl

/-- What a parcel's taking leaves beside the stream. -/
theorem takeRaw_rest (first : Nat) (fs : List RawFrame) (s : State) :
    let t := takeRaw first fs s
    t.unit = s.unit ∧ t.link = s.link ∧ t.arbiter = s.arbiter ∧ t.directives = s.directives ∧ t.settings = s.settings ∧
      t.store = s.store ∧ t.map.entries = s.map.entries := by
  have hbeside := takeRaw_beside first fs s
  simp only [State.beside, Prod.mk.injEq] at hbeside
  obtain ⟨hunit, hlink, harbiter, hdirectives, hsettings, hstore, -, hentries⟩ := hbeside
  exact ⟨hunit, hlink, harbiter, hdirectives, hsettings, hstore, hentries⟩

theorem startWith_arrivals (first : Nat) (fs : List RawFrame) (s : State) : (startWith first fs s).arrivals =
    { s.arrivals with admitted := Quad.tabulate fun l =>
        if s.settings.laneEnable.get l = true then countUp (s.counters.framesAdmitted.get l) 16 else s.counters.framesAdmitted.get l } := by
  rw [startWith, admitParcel_arrivals, passStart_eq]
  rfl

/-- The intake of a pass after its first parcel. -/
theorem startWith_intake {first : Nat} (h : first ≤ 4294967280) (frames : Vector RawFrame 16) (s : State) :
    (startWith first frames.toList s).intake =
      { transport := s.intake.transport, running := true, passNumber := s.intake.passNumber + 1, passStart := first
        position := first + 15, expected := if first = 4294967280 then none else some (first + 16)
        applied := ⟨s.settings.laneEnable, s.settings.direction, s.settings.window⟩ } := by
  rw [startWith, admitParcel_intake h, passStart_eq]
  rfl

/-- Settles O20: the pass begins, block by block, and its first parcel is written as any parcel of a pass. -/
theorem admittedRawParcelsStartAPass : Obligations.AdmittedRawParcelsStartAPass := by
  unfold Obligations.AdmittedRawParcelsStartAPass
  intro first frames s hphase hplay hidle hfirst
  have htaken : takeRaw first.toNat frames.toList (receivedOnU s) = startWith first.toNat frames.toList (receivedOnU s) :=
    takeRaw_of_idle (s := countReceived .U s) hplay hfirst hidle
  obtain ⟨hunit, hlink, harbiter, hdirectives, hsettings, hstore, hentries⟩ := takeRaw_rest first.toNat frames.toList (receivedOnU s)
  have hreported := (streamKeeps_reported (receivedOnU s)).raw first.toNat frames.toList (receivedOnU s) (Reports.Grown.refl _)
  obtain ⟨hcanonical, hhistory⟩ := startWith_history first.toNat frames (receivedOnU s)
  have harrivals := startWith_arrivals first.toNat frames.toList (receivedOnU s)
  have hreceived := congrArg Arrivals.received harrivals
  have hadmitted := congrArg Arrivals.admitted harrivals
  refine ⟨_, exec_rawParcel_of_running first frames hphase, ?intake, ⟨_, ?taken, rfl⟩, ?canonical, ?history, ?received, ?admitted,
    ?walker, ?sides, hunit, hlink, harbiter, hdirectives, hsettings, hstore, hentries, ?log⟩
  case log => exact (List.prefix_iff_eq_take.mp hreported.log).symm
  all_goals rw [show countReceived .U s = receivedOnU s from rfl, htaken]
  case intake =>
    rw [settleLines_intake, startWith_intake hfirst, show (receivedOnU s).intake.transport = .play from hplay]
    rfl
  case taken =>
    rw [← passStart_eq]
    exact admitParcel_taken hfirst frames _
  case canonical => exact hcanonical
  case history => exact hhistory
  case received => exact hreceived
  case admitted =>
    intro l
    refine (congrArg (Quad.get · l) hadmitted).trans ?_
    exact Quad.get_tabulate _ l
  case walker =>
    rw [settleLines_map, startWith, admitParcel_intakeWalker, passStart_eq]
    exact intakeSeek_running s.map.entries first.toNat s.map.intakeWalker
  case sides =>
    intro d hd
    have hidle : ¬ ((receivedOnU s).trackers.get d).state ≠ .idle := not_not.mpr hd
    rw [settleLines_trackers, startWith, ne_eq, admitParcel_idle, passStart_tracker]
    exact (begunTracker_idle_iff first.toNat (receivedOnU s) d).trans (or_iff_left hidle)

end Sys2Proof.Machine
end

section
/-! The stamp rings at a parcel's boundary (R26, R35, R36). -/

namespace Sys2Proof.Machine

/-! ### What an update leaves in the rings -/

theorem judgeSeeking_rings (slew lockCount : Nat) (target : Option Int) (t : Tracker) :
    (judgeSeeking slew lockCount target t).next.ringFirst = t.ringFirst ∧
    (judgeSeeking slew lockCount target t).next.ringSecond = t.ringSecond := by
  unfold judgeSeeking
  dsimp only
  split
  · split <;> exact ⟨rfl, rfl⟩
  · exact ⟨rfl, rfl⟩

theorem judgeState_rings (slew lockCount holdLimit : Nat) (target : Option Int) (t : Tracker) :
    (judgeState slew lockCount holdLimit target t).next.ringFirst = t.ringFirst ∧
    (judgeState slew lockCount holdLimit target t).next.ringSecond = t.ringSecond := by
  unfold judgeState
  split
  · exact ⟨rfl, rfl⟩
  · exact ⟨rfl, rfl⟩
  · split
    · exact ⟨rfl, rfl⟩
    · exact judgeSeeking_rings _ _ _ _
    · exact judgeSeeking_rings _ _ _ _
    · split <;> exact ⟨rfl, rfl⟩
    · split
      · exact ⟨rfl, rfl⟩
      · split <;> exact ⟨rfl, rfl⟩

/-- Stamps pushed into the rings of a side's lanes in use. -/
def ringsPushed (d : Side) (a : Applied) (es : Lane → List StampEntry) (r : List StampEntry × List StampEntry) :
    List StampEntry × List StampEntry :=
  (if a.laneEnable.get (firstLane d) = true then (es (firstLane d)).foldl (pushStamp (a.window / 16)) r.1 else r.1,
    if a.laneEnable.get (secondLane d) = true then (es (secondLane d)).foldl (pushStamp (a.window / 16)) r.2 else r.2)

theorem ringsPushed_append (d : Side) (a : Applied) (es es' : Lane → List StampEntry) (r : List StampEntry × List StampEntry) :
    ringsPushed d a es' (ringsPushed d a es r) = ringsPushed d a (fun l => es l ++ es' l) r := by
  unfold ringsPushed
  simp only [List.foldl_append]
  refine Prod.ext ?_ ?_
  · dsimp only
    split <;> rfl
  · dsimp only
    split <;> rfl

/-- The entries of lanes in use alone are pushed. -/
theorem ringsPushed_congr {d : Side} {a : Applied} {es es' : Lane → List StampEntry}
    (h : ∀ l, a.laneEnable.get l = true → es l = es' l) (r : List StampEntry × List StampEntry) :
    ringsPushed d a es r = ringsPushed d a es' r :=
  Prod.ext (if_ctx_congr Iff.rfl (fun hl => by rw [h _ hl]) fun _ => rfl)
    (if_ctx_congr Iff.rfl (fun hl => by rw [h _ hl]) fun _ => rfl)

/-- The stamp entry of a lane at a boundary (R35). -/
def stampEntry (s : State) (l : Lane) : StampEntry := ⟨(historyAt s l s.intake.position).stamp, parcelClean s l s.intake.position⟩

theorem updateTracker_rings (d c : Side) (s : State) : ringsOf d (updateTracker c s) =
    if d = c ∧ sideActive s d = true then ringsPushed d s.intake.applied (fun l => [stampEntry s l]) (ringsOf d s) else ringsOf d s := by
  have htracker : (updatedTracker d s).ringFirst = (pushRings d s (s.trackers.get d)).ringFirst ∧
      (updatedTracker d s).ringSecond = (pushRings d s (s.trackers.get d)).ringSecond := judgeState_rings _ _ _ _ _
  unfold ringsOf
  rw [updateTracker_trackers]
  by_cases hc : d = c
  · subst hc
    cases sideActive s d with
    | true =>
      rw [if_pos rfl, if_pos ⟨rfl, rfl⟩, PerSide.get_set_same, htracker.1, htracker.2]
      rfl
    | false => rw [if_neg Bool.false_ne_true, if_neg fun h : d = d ∧ false = true => Bool.false_ne_true h.2]
  · rw [if_neg fun h : d = c ∧ sideActive s d = true => hc h.1]
    split
    · rw [PerSide.get_set, if_neg hc]
    · rfl

/-! ### What a production leaves of them -/

theorem unforceTracker_rings (e : MapEntry) (t : Tracker) :
    (unforceTracker e t).ringFirst = t.ringFirst ∧ (unforceTracker e t).ringSecond = t.ringSecond := by
  unfold unforceTracker
  split
  · split <;> exact ⟨rfl, rfl⟩
  · split <;> exact ⟨rfl, rfl⟩
  · exact ⟨rfl, rfl⟩

theorem ringsOf_withTracker (d c : Side) {f : Tracker → Tracker} (hf : ∀ t, (f t).ringFirst = t.ringFirst ∧ (f t).ringSecond = t.ringSecond)
    (s : State) : ringsOf d (withTracker c f s) = ringsOf d s := by
  refine ringsOf_eq_iff.mpr ?_
  rw [withTracker_trackers, PerSide.get_modify]
  split
  · exact hf _
  · exact ⟨rfl, rfl⟩

theorem outputKeeps_rings (d : Side) : OutputKeeps (ringsOf d) where
  walkers _ _ _ := rfl
  cued _ _ := appendCue_keeps (ringsOf d) (fun _ _ => rfl) (fun _ _ => rfl) _ _
  forced c e s := ringsOf_withTracker d c (forceTracker_rings e) s
  unforced c e s := ringsOf_withTracker d c (unforceTracker_rings e) s
  resamplers _ _ := rfl
  handed c x y s := handOnFrame_keeps
    ⟨fun _ _ => rfl, fun _ _ => rfl, fun _ _ => rfl, fun _ _ => rfl, fun _ _ => rfl, fun _ _ => rfl⟩ (fun _ _ => rfl) c x y s

/-! ### A boundary (R29, R36) -/

/-- What a side's update reads of intake and of the sides at work. -/
def stampView (s : State) : Intake × Quad Ring × (Side → Bool × Bool) := (s.intake, s.history, sideRuns s)

theorem doSideWork_stampView (s : State) (w : SideWork) : stampView (doSideWork s w) = stampView s := by
  cases w with
  | update d =>
    have htape := updateTracker_tape d s
    simp only [State.tape, Prod.mk.injEq] at htape
    exact Prod.ext htape.1 (Prod.ext htape.2.1 (updateTracker_sideRuns d s))
  | produce d =>
    have htape := production_keeps productionKeeps_tape d s
    simp only [State.tape, Prod.mk.injEq] at htape
    exact Prod.ext htape.1 (Prod.ext htape.2.1 (production_sideRuns d s))

theorem stampEntry_of_view {s t : State} (h : stampView t = stampView s) (l : Lane) : stampEntry t l = stampEntry s l := by
  simp only [stampView, Prod.mk.injEq] at h
  obtain ⟨hintake, hhistory, -⟩ := h
  unfold stampEntry parcelClean historyAt
  rw [hintake, hhistory]

theorem doSideWork_rings {d : Side} {w : SideWork} (h : w ≠ .update d) (s : State) : ringsOf d (doSideWork s w) = ringsOf d s := by
  cases w with
  | update c =>
    refine (updateTracker_rings d c s).trans (if_neg ?_)
    rintro ⟨rfl, -⟩
    exact h rfl
  | produce c => exact (outputKeeps_rings d).produced c s

theorem works_rings_of_not_mem {d : Side} {ws : List SideWork} (h : .update d ∉ ws) (s : State) :
    ringsOf d (ws.foldl doSideWork s) = ringsOf d s := by
  induction ws generalizing s with
  | nil => rfl
  | cons w ws ih =>
    rw [List.mem_cons, not_or] at h
    rw [List.foldl_cons, ih h.2, doSideWork_rings (Ne.symm h.1)]

/-- One update of a side at work among other pieces of work pushes its stamps once. -/
theorem works_rings {d : Side} {ws : List SideWork} (hmem : .update d ∈ ws) (hnodup : ws.Nodup) {s : State} (hactive : sideActive s d = true) :
    ringsOf d (ws.foldl doSideWork s) = ringsPushed d s.intake.applied (fun l => [stampEntry s l]) (ringsOf d s) := by
  induction ws generalizing s with
  | nil => exact absurd hmem List.not_mem_nil
  | cons w ws ih =>
    obtain ⟨hw, hnodup⟩ := List.nodup_cons.mp hnodup
    rw [List.foldl_cons]
    by_cases hupdate : w = .update d
    · subst hupdate
      rw [works_rings_of_not_mem hw, doSideWork, updateTracker_rings, if_pos ⟨rfl, hactive⟩]
    · have hview := doSideWork_stampView s w
      have hentries : (fun l => [stampEntry (doSideWork s w) l]) = fun l => [stampEntry s l] := by
        funext l
        rw [stampEntry_of_view hview]
      have hintake : (doSideWork s w).intake = s.intake := congrArg Prod.fst hview
      have hsides : sideRuns (doSideWork s w) = sideRuns s := congrArg (·.2.2) hview
      rw [ih ((List.mem_cons.mp hmem).resolve_left (Ne.symm hupdate)) hnodup
        ((congrArg (fun r => (r d).1) hsides).trans hactive), hentries, hintake, doSideWork_rings hupdate]

theorem boundary_rings {d : Side} {s : State} (h : sideActive s d = true) :
    ringsOf d (boundary s) = ringsPushed d s.intake.applied (fun l => [stampEntry s l]) (ringsOf d s) := by
  obtain ⟨hperm, -⟩ := boundaryWorks_perm s
  have hmem : SideWork.update d ∈ boundaryWorks s := hperm.mem_iff.mpr (by cases d <;> decide)
  have hnodup : (boundaryWorks s).Nodup := hperm.nodup_iff.mpr (by decide)
  unfold boundary
  rw [installPending_eq]
  exact works_rings hmem hnodup h

/-! ### A parcel (R26, R35) -/

/-- The stamp entry of a parcel's entries on a lane: the last one's stamp, clean when each is carrier-valid without a gap. -/
def parcelStamp (es : List HistEntry) : StampEntry :=
  ⟨(es.getLast?.map (·.stamp)).getD 0, es.all fun e => e.valid && !e.gap⟩

/-- Entries that agree but for their damage marks agree in what a stamp entry is made of. -/
theorem HistEntry.fields_of_unmarked {e f : HistEntry} (h : e.unmarked = f.unmarked) : e.stamp = f.stamp ∧ e.valid = f.valid ∧ e.gap = f.gap := by
  simp only [HistEntry.unmarked, HistEntry.mk.injEq] at h
  obtain ⟨-, hstamp, -, hvalid, -, hgap⟩ := h
  exact ⟨hstamp, hvalid, hgap⟩

theorem stampEntry_of_written {first : Nat} {es : List HistEntry} (hlen : es.length = 16) {s : State} {l : Lane} {r : Ring}
    (h : RingWritten first es r (s.history.get l)) (hpos : s.intake.position = first + 15) : stampEntry s l = parcelStamp es := by
  have hentry (i : Nat) (hi : i < 16) : ∃ e, es[i]? = some e ∧ (historyAt s l (first + i)).stamp = e.stamp ∧
      (historyAt s l (first + i)).valid = e.valid ∧ (historyAt s l (first + i)).gap = e.gap :=
    ⟨_, List.getElem?_eq_getElem (hlen.symm ▸ hi), HistEntry.fields_of_unmarked (h.stand i (hlen.symm ▸ hi))⟩
  have hclean : parcelClean s l (first + 15) = es.all fun e => e.valid && !e.gap := by
    rw [Bool.eq_iff_iff, parcelClean_iff, List.all_eq_true]
    simp only [Bool.and_eq_true, Bool.not_eq_true']
    constructor
    · intro hall e he
      obtain ⟨i, hi, rfl⟩ := List.getElem_of_mem he
      obtain ⟨e, he, -, hvalid, hgap⟩ := hentry i (hlen ▸ hi)
      obtain rfl : es[i] = e := Option.some.inj ((List.getElem?_eq_getElem hi).symm.trans he)
      rw [← hvalid, ← hgap, show first + i = first + 15 - (15 - i) by omega]
      exact hall (15 - i) (by omega)
    · intro hall i hi
      obtain ⟨e, he, -, hvalid, hgap⟩ := hentry (15 - i) (by omega)
      rw [show first + 15 - i = first + (15 - i) by omega, hvalid, hgap]
      exact hall e (List.mem_of_getElem? he)
  obtain ⟨e, he, hstamp, -, -⟩ := hentry 15 (by decide)
  have hlast : es.getLast? = some e := by rw [List.getLast?_eq_getElem?, hlen, he]
  rw [stampEntry, hpos, hstamp, hclean, parcelStamp, hlast]
  rfl

theorem writeParcel_rings {first : Nat} {fs : List (Quad HistEntry)} (hlen : fs.length = 16) {s : State} (h : HistoryCanonical s) {d : Side}
    (hactive : sideActive s d = true) : ringsOf d (writeParcel first fs s) =
      ringsPushed d s.intake.applied (fun l => [parcelStamp (fs.map (·.get l))]) (ringsOf d s) := by
  have hne : fs ≠ [] := fun hnil => by rw [hnil] at hlen; exact absurd hlen (by decide)
  have hwritten := writeFrames_written first fs h (hlen.trans_le (by decide))
  have hintake := writeFrames_intake first hne s
  have hsides : sideRuns (writeFrames first fs s) = sideRuns s := writeFrames_keeps frameKeeps_sideRuns first fs s
  have hrings : ringsOf d (writeFrames first fs s) = ringsOf d s := writeFrames_keeps (g := ringsOf d)
    ⟨fun _ _ => rfl, fun _ _ => rfl, fun _ _ => rfl, fun _ _ => rfl, fun _ _ => rfl, fun r s => by unfold ringsOf; rw [appendDamage_trackers]⟩ first fs s
  have hposition : (writeFrames first fs s).intake.position = first + 15 := by rw [hintake, hlen]; rfl
  rw [writeParcel, boundary_rings ((congrArg (fun r => (r d).1) hsides).trans hactive), hrings, hwritten.applied]
  refine ringsPushed_congr (fun l hl => ?_) _
  rw [stampEntry_of_written (by rw [List.length_map, hlen]) (hwritten.written l hl) hposition]

theorem fillParcels_rings (first n : Nat) {s : State} (h : HistoryCanonical s) {d : Side} (hactive : sideActive s d = true) :
    ringsOf d (fillParcels first n s) =
      ringsPushed d s.intake.applied (fun _ => List.replicate n ⟨0, false⟩) (ringsOf d s) := by
  induction n generalizing first s with
  | zero => exact Prod.ext (ite_self _).symm (ite_self _).symm
  | succ n ih =>
    have hparcel := writeParcel_history first (List.replicate 16 filledFrame) h (by decide)
    have hview := writeParcel_passView first (List.replicate 16 filledFrame) s
    have hstamp (l : Lane) : parcelStamp ((List.replicate 16 filledFrame).map (·.get l)) = ⟨0, false⟩ := by
      rw [List.map_replicate, filledFrame, Quad.get_fill]
      rfl
    rw [fillParcels, ih (first + 16) hparcel.canonical ((congrArg (fun v => (v.sides d).1) hview).trans hactive), hparcel.applied,
      writeParcel_rings (List.length_replicate) h hactive, ringsPushed_append]
    simp only [hstamp]
    rfl

theorem parcelStamp_entriesOfFrame (frames : Vector RawFrame 16) (l : Lane) :
    parcelStamp ((frames.toList.map entriesOfFrame).map (·.get l)) =
      ⟨((frames.get 15).get l).stamp, (List.finRange 16).all fun i => ((frames.get i).get l).valid⟩ := by
  have hlist : (frames.toList.map entriesOfFrame).map (·.get l) = (List.finRange 16).map fun i => entryOfSample ((frames.get i).get l) := by
    refine List.ext_getElem (by simp) fun i hi _ => ?_
    rw [List.getElem_map, List.getElem_map, Vector.getElem_toList, entriesOfFrame, Quad.get_tabulate, List.getElem_map, List.getElem_finRange]
    rfl
  have hlast : (List.finRange 16).getLast? = some 15 := by decide
  rw [hlist, parcelStamp, List.getLast?_map, hlast, List.all_map]
  simp only [Function.comp_def, entryOfSample, Bool.not_false, Bool.and_true, Option.map_some, Option.getD_some]

end Sys2Proof.Machine
end

section
/-! A RAW parcel of a running pass (R25 to R27). -/

namespace Sys2Proof.Machine

/-! ### Where it stands (R25) -/

theorem gapParcels_of_gap {e n : Nat} (hlow : 1 ≤ n) (hhigh : n ≤ 4) : gapParcels e (e + 16 * n) = some n := by
  unfold gapParcels
  interval_cases n <;> simp

theorem gapParcels_cases {e p n : Nat} (h : gapParcels e p = some n) : 1 ≤ n ∧ n ≤ 4 ∧ p = e + 16 * n := by
  unfold gapParcels at h
  grind

section
variable {p e n : Nat} {fs : List RawFrame} {s : State}

theorem continueWith_of_gap (h : s.intake.expected = some e) (hlow : 1 ≤ n) (hhigh : n ≤ 4) (hp : p = e + 16 * n) :
    continueWith p fs s = admitParcel p fs (fillGap e n s) := by
  subst hp
  rw [continueWith, h]
  dsimp only
  rw [if_neg (by omega), gapParcels_of_gap hlow hhigh]

theorem continueWith_of_break (h : ∀ n ≤ 4, s.intake.expected ≠ some (p - 16 * n) ∨ p < 16 * n) : continueWith p fs s = breakWith p fs s := by
  unfold continueWith
  split
  · rfl
  · next e he =>
    have hno (n : Nat) (hn : n ≤ 4) : p ≠ e + 16 * n := fun hp => by
      obtain hne | hlt := h n hn
      · exact hne (by rw [he, hp, Nat.add_sub_cancel])
      · omega
    rw [if_neg (show p ≠ e from hno 0 (by decide))]
    split
    · next n hgap =>
      obtain ⟨-, hhigh, hp⟩ := gapParcels_cases hgap
      exact absurd hp (hno n hhigh)
    · rfl

end

/-! ### A gap filled (R26) -/

theorem fillParcels_arrivals (first n : Nat) (s : State) : (fillParcels first n s).arrivals = s.arrivals := by
  induction n generalizing first s with
  | zero => rfl
  | succ n ih => rw [fillParcels, ih, writeParcel_arrivals]

theorem fillParcels_intake (first : Nat) {n : Nat} (h : 1 ≤ n) (s : State) :
    (fillParcels first n s).intake = { s.intake with position := first + 16 * n - 1 } := by
  induction n, h using Nat.le_induction generalizing first s with
  | base => exact writeParcel_intake first List.length_replicate s
  | succ n hn ih =>
    rw [fillParcels, ih, writeParcel_intake first List.length_replicate, show first + 16 + 16 * n - 1 = first + 16 * (n + 1) - 1 by omega]

/-- STREAM_GAP as it is raised after its parcels are filled. -/
theorem fillGap_eq (first n : Nat) (s : State) : fillGap first n s =
    { raise .streamGap (fillParcels first n s) with
      counters := { (fillParcels first n s).counters with streamGaps := countUp (fillParcels first n s).counters.streamGaps 1 } } := rfl

theorem fillGap_history (first n : Nat) {s : State} (h : HistoryCanonical s) (hlen : 16 * n ≤ 2048) :
    HistoryWritten first (List.replicate (16 * n) filledFrame) s (fillGap first n s) :=
  (fillParcels_history first n h hlen).congr rfl rfl rfl rfl

theorem fillGap_intake (first : Nat) {n : Nat} (h : 1 ≤ n) (s : State) :
    (fillGap first n s).intake = { s.intake with position := first + 16 * n - 1 } := fillParcels_intake first h s

/-- The notice of STREAM_GAP carries the last filled position. -/
theorem fillGap_notices (first : Nat) {n : Nat} (h : 1 ≤ n) {s : State} (hflag : s.flags.getLsbD EventKind.streamGap.code = false)
    (hmask : s.settings.noticeMask.getLsbD EventKind.streamGap.code = true) (hnone : ∀ x ∈ s.notices, x.kind ≠ .streamGap) :
    ⟨.streamGap, s.intake.passNumber, first + 16 * n - 1⟩ ∈ (fillGap first n s).notices := by
  have harrivals := fillParcels_arrivals first n s
  have hflag' : (fillParcels first n s).flags.getLsbD EventKind.streamGap.code = false := (congrArg Arrivals.gapFlag harrivals).trans hflag
  have hfilter : s.notices.filter (·.kind == .streamGap) = [] := List.filter_eq_nil_iff.mpr fun x hx => by simpa using hnone x hx
  have hnone' : ∀ x ∈ (fillParcels first n s).notices, x.kind ≠ .streamGap := fun x hx => by
    have hnot := List.filter_eq_nil_iff.mp ((congrArg Arrivals.gapNotices harrivals).trans hfilter) x hx
    simpa using hnot
  have hmask' : (fillParcels first n s).settings.noticeMask.getLsbD EventKind.streamGap.code = true := by
    have hbeside := fillParcels_beside first n s
    simp only [State.beside, Prod.mk.injEq] at hbeside
    obtain ⟨-, -, -, -, hsettings, -⟩ := hbeside
    rw [hsettings, hmask]
  rw [fillGap_eq]
  show _ ∈ (raise .streamGap (fillParcels first n s)).notices
  rw [raise_notices_of_noted hflag' hmask' hnone', fillParcels_intake first h]
  exact List.mem_append_right _ (List.mem_singleton_self _)

/-! ### The parcel after a gap -/

/-- The stamps that a parcel pushes into the rings of a side at work. -/
theorem admitParcel_rings (first : Nat) (frames : Vector RawFrame 16) {s : State} (h : HistoryCanonical s) {d : Side}
    (hactive : sideActive s d = true) : ringsOf d (admitParcel first frames.toList s) = ringsPushed d s.intake.applied (fun l =>
      [⟨((frames.get 15).get l).stamp, (List.finRange 16).all fun i => ((frames.get i).get l).valid⟩]) (ringsOf d s) := by
  have hlen : (frames.toList.map entriesOfFrame).length = 16 := by rw [List.length_map, Vector.length_toList]
  have hrings := writeParcel_rings (first := first) hlen (s := framesCounted s) h (d := d) hactive
  simp only [parcelStamp_entriesOfFrame] at hrings
  unfold admitParcel
  dsimp only
  rw [framesCounted_eq]
  exact hrings

/-- The state after a gap and its parcel. -/
def gapPassed (e n first : Nat) (frames : Vector RawFrame 16) (s : State) : State := admitParcel first frames.toList (fillGap e n s)

theorem gapPassed_intake {e n first : Nat} (hlow : 1 ≤ n) (hfirst : first ≤ 4294967280) (frames : Vector RawFrame 16) (s : State) :
    (gapPassed e n first frames s).intake = { s.intake with
      position := first + 15, expected := if first = 4294967280 then none else some (first + 16) } := by
  rw [gapPassed, admitParcel_intake hfirst, fillGap_intake e hlow]

theorem gapPassed_arrivals (e n first : Nat) (frames : Vector RawFrame 16) (s : State) :
    (gapPassed e n first frames s).counters.receivedU = s.counters.receivedU ∧
    (gapPassed e n first frames s).counters.streamGaps = countUp s.counters.streamGaps 1 ∧
    (gapPassed e n first frames s).counters.streamBreaks = s.counters.streamBreaks := by
  have hadmitted := admitParcel_arrivals first frames.toList (fillGap e n s)
  have hfilled := fillParcels_arrivals e n s
  have hgaps := congrArg Arrivals.gaps hfilled
  exact ⟨(congrArg Arrivals.received hadmitted).trans (congrArg Arrivals.received hfilled),
    (congrArg Arrivals.gaps hadmitted).trans (congrArg (countUp · 1) hgaps),
    (congrArg Arrivals.breaks hadmitted).trans (congrArg Arrivals.breaks hfilled)⟩

/-- The filled parcels, and the parcel after them. -/
theorem gapPassed_history {e n first : Nat} (hhigh : n ≤ 4) (hfirst : first = e + 16 * n) (frames : Vector RawFrame 16) {s : State}
    (h : HistoryCanonical s) : HistoryWritten e (List.replicate (16 * n) filledFrame ++ frames.toList.map entriesOfFrame) s
      (gapPassed e n first frames s) := by
  have hgap := fillGap_history e n h (by omega)
  have hparcel := admitParcel_history (e + 16 * n) frames hgap.canonical
  subst hfirst
  refine hgap.append ?_ ?_
  · rw [List.length_replicate]
    exact hparcel
  · rw [List.length_replicate, List.length_map, Vector.length_toList]
    omega

/-- What a lane in use holds after a gap: filled entries, then the parcel's frames, and the rest as it was. -/
theorem gapPassed_ring {e n first : Nat} (hhigh : n ≤ 4) (hfirst : first = e + 16 * n) (frames : Vector RawFrame 16) {s : State}
    (h : HistoryCanonical s) {l : Lane} (hl : s.intake.applied.laneEnable.get l = true) :
    (∀ j < 16 * n, { ringRead ((gapPassed e n first frames s).history.get l) ((e + j) % 2048) with damaged := false } = clearedEntry) ∧
    FramesStand first frames l ((gapPassed e n first frames s).history.get l) ∧
    ElseKept e (16 * n + 16) (s.history.get l) ((gapPassed e n first frames s).history.get l) := by
  have hgap := fillGap_history e n h (by omega)
  have hparcel := (admitParcel_history first frames hgap.canonical).written l (by rw [hgap.applied]; exact hl)
  obtain ⟨hstand, hkept⟩ := (gapPassed_history hhigh hfirst frames h).written l hl
  refine ⟨fun j hj => ?_, hparcel.framesStand, ?_⟩
  · have hlt : j < (List.replicate (16 * n) filledFrame).length := by rwa [List.length_replicate]
    refine (hstand j (by rw [List.length_map, List.length_append]; exact Nat.lt_add_right _ hlt)).trans ?_
    rw [List.getElem_map, List.getElem_append_left hlt, List.getElem_replicate, filledFrame, Quad.get_fill]
    rfl
  · rwa [List.length_map, List.length_append, List.length_replicate, List.length_map, Vector.length_toList] at hkept

/-- The stamps that a gap and its parcel push into the rings of a side at work. -/
theorem gapPassed_rings {e n first : Nat} (hhigh : n ≤ 4) (frames : Vector RawFrame 16) {s : State} (h : HistoryCanonical s) {d : Side}
    (hactive : sideActive s d = true) : ringsOf d (gapPassed e n first frames s) = ringsPushed d s.intake.applied (fun l =>
      List.replicate n ⟨0, false⟩ ++
        [⟨((frames.get 15).get l).stamp, (List.finRange 16).all fun i => ((frames.get i).get l).valid⟩]) (ringsOf d s) := by
  have hgap := fillGap_history e n h (by omega)
  have hview := fillGap_passView e n s
  have hfilled : ringsOf d (fillGap e n s) = ringsPushed d s.intake.applied (fun _ => List.replicate n ⟨0, false⟩) (ringsOf d s) :=
    fillParcels_rings e n h hactive
  rw [gapPassed, admitParcel_rings first frames hgap.canonical ((congrArg (fun v => (v.sides d).1) hview).trans hactive), hgap.applied,
    hfilled, ringsPushed_append]

/-! ### A break (R27) -/

theorem noteBreak_intake (s : State) : (noteBreak s).intake = s.intake := rfl

theorem noteBreak_settings (s : State) : (noteBreak s).settings = s.settings := rfl

/-- The state after a break and the first parcel of the pass it starts. -/
theorem breakWith_intake {first : Nat} (h : first ≤ 4294967280) (frames : Vector RawFrame 16) (s : State) :
    (breakWith first frames.toList s).intake =
      { transport := s.intake.transport, running := true, passNumber := s.intake.passNumber + 1, passStart := first
        position := first + 15, expected := if first = 4294967280 then none else some (first + 16)
        applied := ⟨s.settings.laneEnable, s.settings.direction, s.settings.window⟩ } := by
  have hrest : (flushedEnd s).passRest = s.passRest := by
    rw [flushedEnd_frame]
    rfl
  simp only [State.passRest, Prod.mk.injEq] at hrest
  obtain ⟨htransport, hpass, -⟩ := hrest
  have hbeside := flushedEnd_beside s
  simp only [State.beside, Prod.mk.injEq] at hbeside
  obtain ⟨-, -, -, -, hsettings, -⟩ := hbeside
  rw [breakWith, startWith_intake h, noteBreak_intake, noteBreak_settings, htransport, hpass, hsettings]

theorem breakWith_arrivals (first : Nat) (fs : List RawFrame) (s : State) :
    (breakWith first fs s).counters.receivedU = s.counters.receivedU ∧
    (breakWith first fs s).counters.streamGaps = s.counters.streamGaps ∧
    (breakWith first fs s).counters.streamBreaks = countUp s.counters.streamBreaks 1 := by
  have hstarted := startWith_arrivals first fs (noteBreak (flushedEnd s))
  have hcounts := flushedEnd_countsBesideEnd s
  have hreceived := congrArg Counters.receivedU hcounts
  have hgaps := congrArg Counters.streamGaps hcounts
  have hbreaks := congrArg Counters.streamBreaks hcounts
  exact ⟨(congrArg Arrivals.received hstarted).trans hreceived, (congrArg Arrivals.gaps hstarted).trans hgaps,
    (congrArg Arrivals.breaks hstarted).trans (congrArg (countUp · 1) hbreaks)⟩

theorem startWith_reported (first : Nat) (fs : List RawFrame) (s : State) : Reported s (startWith first fs s) :=
  (streamKeeps_reported s).admitted _ _ _ ((streamKeeps_reported s).started _ _ (Reports.Grown.refl _))

end Sys2Proof.Machine
end

section
/-! A RAW parcel of a running pass continues it, fills a gap or breaks it (R25 to R27). -/

namespace Sys2Proof.Machine

theorem continueWith_received (p : Nat) (frames : Vector RawFrame 16) (s : State) :
    (continueWith p frames.toList s).counters.receivedU = s.counters.receivedU := by
  unfold continueWith
  split
  · exact (breakWith_arrivals p frames.toList s).1
  · next e _ =>
    split
    · exact congrArg Arrivals.received (admitParcel_arrivals p frames.toList s)
    · split
      · next n _ => exact (gapPassed_arrivals e n p frames s).1
      · exact (breakWith_arrivals p frames.toList s).1

/-- A break: the flushed end, STREAM_BREAK counted and raised, and a pass started at the parcel. -/
theorem breakWith_taken {first : Nat} (h : first ≤ 4294967280) (frames : Vector RawFrame 16) (s : State) :
    ParcelTaken first frames (passBegun first (noteBreak (flushedEnd s))) (breakWith first frames.toList s) := by
  rw [← passStart_eq]
  exact admitParcel_taken h frames _

theorem breakWith_history (first : Nat) (frames : Vector RawFrame 16) (s : State) :
    HistoryCanonical (breakWith first frames.toList s) ∧
    HistoryBegins s.settings.laneEnable first frames (breakWith first frames.toList s).history := by
  have hbegun := startWith_history first frames (noteBreak (flushedEnd s))
  have hbeside := flushedEnd_beside s
  simp only [State.beside, Prod.mk.injEq] at hbeside
  obtain ⟨-, -, -, -, hsettings, -⟩ := hbeside
  rwa [noteBreak_settings, hsettings] at hbegun

/-- Settles O21: an admitted parcel, a gap filled before it, or a flushed end and a pass started at it. -/
theorem runningPassesContinueFillOrBreak : Obligations.RunningPassesContinueFillOrBreak := by
  unfold Obligations.RunningPassesContinueFillOrBreak
  intro first frames s hphase hplay hrun hfirst
  have htaken : takeRaw first.toNat frames.toList (receivedOnU s) = continueWith first.toNat frames.toList (receivedOnU s) :=
    takeRaw_of_running (s := countReceived .U s) hplay hfirst hrun
  obtain ⟨hunit, hlink, harbiter, hdirectives, hsettings, hstore, hentries⟩ := takeRaw_rest first.toNat frames.toList (receivedOnU s)
  refine ⟨_, exec_rawParcel_of_running first frames hphase, ?received, hunit, hlink, harbiter, hdirectives, hsettings, hstore, hentries,
    fun hexpected => ?goesOn, fun e n hexpected hlow hhigh hgap => ?gap, fun hbreak => ?broken⟩
  all_goals rw [show countReceived .U s = receivedOnU s from rfl, htaken]
  case received => exact continueWith_received first.toNat frames (receivedOnU s)
  case goesOn =>
    rw [continueWith_of_expected (s := receivedOnU s) hexpected]
    have harrivals := admitParcel_arrivals first.toNat frames.toList (receivedOnU s)
    exact ⟨admitParcel_intake hfirst frames (receivedOnU s), ⟨_, admitParcel_taken hfirst frames (receivedOnU s), rfl⟩,
      congrArg Arrivals.gaps harrivals, congrArg Arrivals.breaks harrivals⟩
  case gap =>
    have hpassed : continueWith first.toNat frames.toList (receivedOnU s) = gapPassed e n first.toNat frames (receivedOnU s) :=
      continueWith_of_gap (s := receivedOnU s) hexpected hlow hhigh hgap
    rw [hpassed]
    obtain ⟨-, hgaps, hbreaks⟩ := gapPassed_arrivals e n first.toNat frames (receivedOnU s)
    have hreported : Reported (fillGap e n (receivedOnU s)) (gapPassed e n first.toNat frames (receivedOnU s)) :=
      (streamKeeps_reported _).admitted _ _ _ (Reports.Grown.refl _)
    refine ⟨gapPassed_intake hlow hfirst frames (receivedOnU s),
      ⟨fillParcels e n (receivedOnU s), _, fillParcels_filled e n (receivedOnU s), admitParcel_taken hfirst frames (fillGap e n (receivedOnU s)), rfl⟩,
      hgaps, hbreaks, hreported.flags 4 (raise_flags_self .streamGap (fillParcels e n (receivedOnU s))), fun hflag hmask hnone => ?notice,
      fun hwf => ⟨?canonical, ?unused, fun l hl => gapPassed_ring hhigh hgap frames (s := receivedOnU s) hwf hl, fun d hactive => ?rings⟩⟩
    case notice =>
      have hnoticed := fillGap_notices e hlow (s := receivedOnU s) hflag hmask hnone
      rw [← hgap] at hnoticed
      exact hreported.notices.subset hnoticed
    case canonical => exact (gapPassed_history hhigh hgap frames (s := receivedOnU s) hwf).canonical
    case unused => exact (gapPassed_history hhigh hgap frames (s := receivedOnU s) hwf).unused
    case rings =>
      have hrings := gapPassed_rings (first := first.toNat) (e := e) hhigh frames (s := receivedOnU s) hwf (d := d)
        ((sideActive_iff _ d).mpr hactive)
      simp only [ringsPushed, List.foldl_append, List.foldl_cons, List.foldl_nil] at hrings
      exact Prod.mk.inj hrings
  case broken =>
    rw [continueWith_of_break (s := receivedOnU s) hbreak]
    obtain ⟨-, hgaps, hbreaks⟩ := breakWith_arrivals first.toNat frames.toList (receivedOnU s)
    obtain ⟨hcanonical, hhistory⟩ := breakWith_history first.toNat frames (receivedOnU s)
    have hintake := breakWith_intake hfirst frames (receivedOnU s)
    rw [show (receivedOnU s).intake.transport = .play from hplay] at hintake
    have hreported := startWith_reported first.toNat frames.toList (noteBreak (flushedEnd (receivedOnU s)))
    exact ⟨hintake, ⟨flushedEnd (receivedOnU s), _, rfl, breakWith_taken hfirst frames (receivedOnU s), rfl⟩, hcanonical, hhistory, hgaps,
      hbreaks, hreported.flags 5 (raise_flags_self .streamBreak _)⟩

end Sys2Proof.Machine
end
